-- ==== Sys2Proof/Word.lean ====
section
/-! DEFINITION. The word types of the block (spec/00_scope.md rules R8 and R10): registers and register addresses
are 8 bits wide, a wide field is 32 bits, every quantity is unsigned. -/

namespace Sys2Proof

/-- One register (`REG_W` = 8, rule R8). -/
abbrev Byte := BitVec 8

/-- One register address (`ADDR_W` = 8, rule R8). -/
abbrev Addr := BitVec 8

/-- A wide field: the operand of `set32` and the result of `get32` (rule R51). -/
abbrev Word32 := BitVec 32

end Sys2Proof
end

