-- ==== Sys2Proof/Config.lean ====
section
/-! DEFINITION. The configuration record `Cfg` of spec/00_scope.md rule R8, with its lookups, and the free values
(spec/92_eei_decisions.md, "Draws"). `Cfg` is plain data, held in `State.cfg` (assumption log entry 1), so that a
statement about every state is a statement about every `Cfg`. -/

namespace Sys2Proof

/-- The register names of the register map (rule R24), in its order. -/
inductive RegName where
  | mcusr | osccal | status | control | startEnable | startReason
  | restartHours | restartMinutes | restartSeconds
  | seconds0 | seconds1 | seconds2 | seconds3
  | capability | boardType | boardRev | boardStep | extended
  | wdtReset | wdtPower | wdtStop | wdtStart
  | i2cAddress | i2cIcharge | i2cTcharge
  deriving DecidableEq, Repr

/-- Every register name of rule R24, once. -/
def RegName.all : List RegName :=
  [.mcusr, .osccal, .status, .control, .startEnable, .startReason,
   .restartHours, .restartMinutes, .restartSeconds,
   .seconds0, .seconds1, .seconds2, .seconds3,
   .capability, .boardType, .boardRev, .boardStep, .extended,
   .wdtReset, .wdtPower, .wdtStop, .wdtStart,
   .i2cAddress, .i2cIcharge, .i2cTcharge]

/-- The access class of a register as the bus master sees it (rules R8, R13, R24). `wta` is
"write-triggers-action"; for this block such a register is stored like a `rw` one (rule R25). -/
inductive AccessClass where
  | ro | rw | wta
  deriving DecidableEq, Repr

/-- `P_RO_BUS_WRITE` (rule R8): whether a bus write to an `ro` register is ignored or stored. -/
inductive RoBusWrite where
  | ignore | store
  deriving DecidableEq, Repr

/-- `P_RANGE_CHECK` and `P_CAP_GATE` (rule R8). -/
inductive Check where
  | off | reject
  deriving DecidableEq, Repr

/-- One address of `Defined` with what `Cfg` says about it: `CLASS(a)` and `RESET_IMAGE(a)` (rule R8). -/
structure RegDef where
  addr : Addr
  cls : AccessClass
  resetImage : Byte
  deriving DecidableEq, Repr

/-- The OPEN addresses `ADDR_<NAME>` of rule R8. `START_REASON` is not among them (the source fixes 0x05), and
`SECONDS_1..3` follow `SECONDS_0` (rule R9). -/
structure AddrMap where
  mcusr : Addr
  osccal : Addr
  status : Addr
  control : Addr
  startEnable : Addr
  restartHours : Addr
  restartMinutes : Addr
  restartSeconds : Addr
  seconds0 : Addr
  capability : Addr
  boardType : Addr
  boardRev : Addr
  boardStep : Addr
  extended : Addr
  wdtReset : Addr
  wdtPower : Addr
  wdtStop : Addr
  wdtStart : Addr
  i2cAddress : Addr
  i2cIcharge : Addr
  i2cTcharge : Addr
  deriving DecidableEq, Repr

/-- `ADDR_START_REASON`: "write byte `0x05` (select `START_REASON`)", the only address the source gives (R8, R24). -/
def addrStartReason : Addr := 0x05

/-- The configuration record of rule R8. -/
structure Cfg where
  addr : AddrMap
  regs : List RegDef
  slaveAddr : BitVec 7
  controlCe : Byte
  controlBootload : Byte
  controlLed0 : Byte
  controlLed1 : Byte
  statusButton : Byte
  statusOpto : Byte
  capRtc : Byte
  capWdt : Byte
  capCharger : Byte
  capAddr : Byte
  extSentinel : Byte
  boardTypeVal : Byte
  boardRevVal : Byte
  boardStepVal : Byte
  capabilityVal : Byte
  minChargeStep : Byte
  roBusWrite : RoBusWrite
  rangeCheck : Check
  capGate : Check
  deriving DecidableEq, Repr

/-- `ADDR_<NAME>` (rules R8, R9). -/
def Cfg.addrOf (c : Cfg) : RegName → Addr
  | .mcusr => c.addr.mcusr
  | .osccal => c.addr.osccal
  | .status => c.addr.status
  | .control => c.addr.control
  | .startEnable => c.addr.startEnable
  | .startReason => addrStartReason
  | .restartHours => c.addr.restartHours
  | .restartMinutes => c.addr.restartMinutes
  | .restartSeconds => c.addr.restartSeconds
  | .seconds0 => c.addr.seconds0
  | .seconds1 => c.addr.seconds0 + 1
  | .seconds2 => c.addr.seconds0 + 2
  | .seconds3 => c.addr.seconds0 + 3
  | .capability => c.addr.capability
  | .boardType => c.addr.boardType
  | .boardRev => c.addr.boardRev
  | .boardStep => c.addr.boardStep
  | .extended => c.addr.extended
  | .wdtReset => c.addr.wdtReset
  | .wdtPower => c.addr.wdtPower
  | .wdtStop => c.addr.wdtStop
  | .wdtStart => c.addr.wdtStart
  | .i2cAddress => c.addr.i2cAddress
  | .i2cIcharge => c.addr.i2cIcharge
  | .i2cTcharge => c.addr.i2cTcharge

/-- The row of address `n` in the table of `Defined`, if `n` is in it. Addresses are counted in Nat, so that the
sum `addr + i` of a wide access beyond 0xFF names no register (rules R45, R88). -/
def Cfg.regDef? (c : Cfg) (n : Nat) : Option RegDef :=
  c.regs.find? fun r => r.addr.toNat == n

/-- Whether address `n` is in `Defined` (rules R8, R16). -/
def Cfg.defines (c : Cfg) (n : Nat) : Bool :=
  (c.regDef? n).isSome

/-- `CLASS(a)`; no class outside `Defined`. -/
def Cfg.classOf (c : Cfg) (a : Addr) : Option AccessClass :=
  (c.regDef? a.toNat).map RegDef.cls

/-- The class rule R24 gives each named register; `WellFormed.lean` demands that `Cfg` agrees. -/
def RegName.cls : RegName → AccessClass
  | .mcusr | .status | .startReason | .capability | .boardType | .boardRev | .boardStep | .extended
  | .i2cAddress => .ro
  | .osccal | .control | .startEnable | .restartHours | .restartMinutes | .restartSeconds
  | .seconds0 | .seconds1 | .seconds2 | .seconds3
  | .wdtReset | .wdtPower | .wdtStop | .wdtStart | .i2cIcharge | .i2cTcharge => .rw

/-! The free values: nothing constrains them. `n` is the draw counter of the state (assumption log entry 6). -/

/-- A draw of one bit: `rail_cmd` after RESET (rules R22, R150). -/
opaque Config.freeBit : Nat → Bool

/-- A draw of one byte: `tx_byte` when the slave does not drive the bus (rules R98, R103). -/
opaque Config.freeByte : Nat → Byte

/-- A draw of the two input levels `(rail_good, power_good)`, taken when no input of the schedule gives them
(rule R36; assumption log entry 11). -/
opaque Config.freeLevels : Nat → Bool × Bool

end Sys2Proof
end

