-- ==== Sys2Proof/Machine/Defaults.lean ====
section
/-! DEFINITION. `DEFAULT`, the instantiation of `Cfg` that the spec's test vectors use (spec/00_scope.md rule R8,
spec/10_state.md rule R24). Its addresses, slave address and sentinel are PRESUMED (the spec marks them as general
knowledge, not in source), its bit positions and values DESIGN CHOICE: assumption log entries 2, 3 and 4. -/

namespace Sys2Proof.Machine

/-- The `DEFAULT addr` column of rule R24. -/
def defaultAddrs : AddrMap where
  mcusr := 0x00
  osccal := 0x01
  status := 0x02
  control := 0x03
  startEnable := 0x04
  restartHours := 0x06
  restartMinutes := 0x07
  restartSeconds := 0x08
  seconds0 := 0x09
  capability := 0x0D
  boardType := 0x0E
  boardRev := 0x0F
  boardStep := 0x10
  extended := 0x11
  wdtReset := 0x12
  wdtPower := 0x13
  wdtStop := 0x14
  wdtStart := 0x15
  i2cAddress := 0x16
  i2cIcharge := 0x17
  i2cTcharge := 0x18

/-- `Defined` = 0x00 to 0x18, `CLASS` of rule R24, `RESET_IMAGE` 0x00 except `START_ENABLE` = 0x0F (rule R8). The
image of an `ro` register is not used (its reset value is another column entry of rule R24). -/
def defaultRegs : List RegDef :=
  [⟨0x00, .ro, 0⟩, ⟨0x01, .rw, 0⟩, ⟨0x02, .ro, 0⟩, ⟨0x03, .rw, 0⟩, ⟨0x04, .rw, 0x0F⟩, ⟨0x05, .ro, 0⟩,
   ⟨0x06, .rw, 0⟩, ⟨0x07, .rw, 0⟩, ⟨0x08, .rw, 0⟩, ⟨0x09, .rw, 0⟩, ⟨0x0A, .rw, 0⟩, ⟨0x0B, .rw, 0⟩,
   ⟨0x0C, .rw, 0⟩, ⟨0x0D, .ro, 0⟩, ⟨0x0E, .ro, 0⟩, ⟨0x0F, .ro, 0⟩, ⟨0x10, .ro, 0⟩, ⟨0x11, .ro, 0⟩,
   ⟨0x12, .rw, 0⟩, ⟨0x13, .rw, 0⟩, ⟨0x14, .rw, 0⟩, ⟨0x15, .rw, 0⟩, ⟨0x16, .ro, 0⟩, ⟨0x17, .rw, 0⟩,
   ⟨0x18, .rw, 0⟩]

/-- `DEFAULT` (rule R8). The spec gives `MIN_CHARGE_STEP` no default: 0x00, assumption log entry 4. -/
def defaultCfg : Cfg where
  addr := defaultAddrs
  regs := defaultRegs
  slaveAddr := 0x21
  controlCe := 0x01
  controlBootload := 0x02
  controlLed0 := 0x04
  controlLed1 := 0x08
  statusButton := 0x01
  statusOpto := 0x02
  capRtc := 0x01
  capWdt := 0x02
  capCharger := 0x04
  capAddr := 0x08
  extSentinel := 0x69
  boardTypeVal := 0x00
  boardRevVal := 0x00
  boardStepVal := 0x00
  capabilityVal := 0x0F
  minChargeStep := 0x00
  roBusWrite := .ignore
  rangeCheck := .off
  capGate := .off

/-- The cause byte `MCUSR` holds in `State.reset`, and what an unlisted `MCUSR` reads as: the power-up of program
P1 of spec/95_test_vectors.md, `reset(01)`. DESIGN CHOICE, assumption log entry 8. -/
def powerUpCause : Byte := 0x01

end Sys2Proof.Machine
end

