-- ==== Sys2Proof/Machine/State.lean ====
section
/-! DEFINITION. The state of the block (spec/10_state.md rule R15) as plain data, the outcomes a step may have besides
a next state, and the state after reset (rule R38). -/

namespace Sys2Proof.Machine

/-- PowerState (rules R17, R65). `unknown` is code 7: rule R43 says a model must not build its absence in. -/
inductive PState where
  | init | clearMask | off | offPowerGood | poweringOn | poweringOff | on | unknown
  deriving DecidableEq, Repr

/-- The state of BusSlaveProtocol (rules R19, R66). -/
inductive BState where
  | idle | addressSelect | writing | reading
  deriving DecidableEq, Repr

/-- An output event of rule R37. -/
inductive OutEvent where
  | railOn
  | railOff
  | armCountdown (hours minutes seconds : Byte)
  | wdtKick
  | sleep
  deriving DecidableEq, Repr

/-- What an operation returns to its port (rules R37, R69, R106). A MODEL's own field: assumption log entry 13. -/
structure Answer where
  /-- Returned by start and received-byte events. -/
  ack : Option Bool
  /-- Returned by byte-request events. -/
  txByte : Option Byte
  /-- Returned by `GET8` (zero-extended) and `GET32`. -/
  data : Option Word32
  deriving DecidableEq, Repr

/-- An operation that returns nothing. -/
def Answer.none : Answer := ⟨Option.none, Option.none, Option.none⟩

/-- Where the main loop stands: between iterations, or inside one, before the heartbeat or before the suspend test.
The three parts of an iteration are separate atomic operations (rule R132). Assumption log entry 12. -/
inductive MainPhase where
  | ready | kickDue | suspendDue
  deriving DecidableEq, Repr

/-- The execution contexts of rule R12. -/
inductive Context where
  | main | irq
  deriving DecidableEq, Repr

/-- An event at a port (rules R36, R69, R70). -/
inductive PortEvent where
  /-- The firmware port, format STORE_OP. -/
  | store (w : BitVec 43)
  /-- The two-wire bus, format BUS_EVT. -/
  | bus (w : BitVec 10)
  /-- The controller port, format PWR_EVT. -/
  | pwr (w : BitVec 11)
  /-- No port of the spec: an INTERNAL operation placed by itself. Assumption log entry 15. -/
  | internal (w : BitVec 18)
  deriving DecidableEq, Repr

/-- One input of the schedule: an event, the context of an operation that rule R61 admits in both, the place in a
main-loop iteration at which it falls (`ready`: between two iterations; `kickDue`: between the step and the heartbeat;
`suspendDue`: between the heartbeat and the suspend test), and the levels at its moment. Assumption log entries 10 and
12. -/
structure Input where
  event : PortEvent
  ctx : Context
  slot : MainPhase
  railGood : Bool
  powerGood : Bool
  deriving DecidableEq, Repr

/-- The cells of the register file that do not hold what an unlisted cell reads as (`Ops.lean`, `unlistedByte`), in
rising address order. Assumption log entry 7. -/
abbrev Memory := List Host.Cell

/-- The state of the block: the tuple of rule R15 and the output trace, then what rule R15 calls parameters of every
step (`cfg`, the levels, the schedule), then the model's own fields. -/
structure State where
  /-- The register file (rule R16). -/
  reg : Memory
  /-- Rule R17. -/
  pstate : PState
  /-- Rule R18. -/
  busEn : Bool
  /-- Rule R19. -/
  bstate : BState
  /-- Rule R20. -/
  ptr : Addr
  /-- Rule R21. -/
  irqStart : BitVec 4
  /-- Rule R22. -/
  railCmd : Bool
  /-- Rule R41. -/
  sleeping : Bool
  /-- The output trace, oldest event first (rule R37). -/
  trace : List OutEvent
  /-- The configuration (rule R8); no operation writes it. -/
  cfg : Cfg
  /-- The level `rail_good` as the running operation samples it (rule R36). -/
  railGood : Bool
  /-- The level `power_good` as the running operation samples it (rule R36). -/
  powerGood : Bool
  /-- The schedule: port events to come, the next first. -/
  inputs : List Input
  /-- What the last operation returned. -/
  answer : Answer
  /-- Where the main loop stands. -/
  mainPhase : MainPhase
  /-- How many free values have been drawn. -/
  draws : Nat
  deriving DecidableEq, Repr

/-- There is none: "nothing in the core raises an error to a caller in the conventional sense" (rule R137), no
operation traps, and the one fatal event, the watchdog's, is the operation RESET (rule R145). -/
inductive Fault : Type
  deriving DecidableEq, Repr

/-- Why a step has no meaning. -/
inductive Refusal where
  /-- Raised by `exec` for an operation whose meaning is not written yet; safe: nothing is claimed of it. No arm
  raises it. -/
  | notModelled (mnemonic : String)
  deriving DecidableEq, Repr

/-- The machine right after a power-up reset (rules R38, R150) under `DEFAULT`. Every register reads its reset value
with nothing listed (`Ops.lean`, `unlistedByte`). `railCmd` has no reset value in the spec: DESIGN CHOICE 0, assumption
log entry 5; the cause in `MCUSR`: entry 8; the last six fields: entries 6 and 10 to 13. -/
def State.reset : State where
  reg := []
  pstate := .init
  busEn := false
  bstate := .idle
  ptr := 0x00
  irqStart := 0x0
  railCmd := false
  sleeping := false
  trace := []
  cfg := defaultCfg
  railGood := false
  powerGood := false
  inputs := []
  answer := .none
  mainPhase := .ready
  draws := 0

end Sys2Proof.Machine
end

