-- ==== Sys2Proof/Machine/Flags.lean ====
section
/-! DEFINITION. The masks and flags of the block: the reason bits (spec/30_encoding.md rule R67), the start-interrupt
mask (spec/10_state.md rule R21), the test of the start-event handler (spec/42_power_controller.md rule R128) and the
register bits shown as levels (rules R25, R26, R37). -/

namespace Sys2Proof.Machine

/-- `START_BUTTON`, bit 0 (rules R8, R67). -/
def startButton : Byte := 0x01

/-- `START_OPTO`, bit 1 (rules R8, R67). -/
def startOpto : Byte := 0x02

/-- `START_PWRGOOD`, bit 2 (rules R8, R67). -/
def startPwrGood : Byte := 0x04

/-- `START_TIMEOUT`, bit 3 (rules R8, R67). -/
def startTimeout : Byte := 0x08

/-- Some bit of `mask` is set in `v`: `v & mask != 0`. -/
def anyBit (v mask : Byte) : Bool := v &&& mask != 0

/-- "enable interrupts for StartEnableMask reasons": `START_ENABLE[3:0]` (rules R21, R114). -/
def irqStartOf (startEnable : Byte) : BitVec 4 := startEnable.extractLsb' 0 4

/-- Bit `i` of the start-interrupt mask (rules R21, R129 to R131). -/
def irqEnabled (mask : BitVec 4) (i : Nat) : Bool := mask.getLsbD i

/-- The two tests of `HANDLE_START_EVENT` (rule R128). -/
def startAdmitted (p : PState) (reason startEnable : Byte) : Bool :=
  (p == .off || p == .offPowerGood) && anyBit reason startEnable

/-- The level `charger_enable` as a function of `CONTROL` (rules R25, R37). -/
def chargerEnable (c : Cfg) (control : Byte) : Bool := anyBit control c.controlCe

/-- The level `bootloader_request` (rules R25, R37). -/
def bootloaderRequest (c : Cfg) (control : Byte) : Bool := anyBit control c.controlBootload

/-- The level `led0` (rules R25, R37). -/
def led0 (c : Cfg) (control : Byte) : Bool := anyBit control c.controlLed0

/-- The level `led1` (rules R25, R37). -/
def led1 (c : Cfg) (control : Byte) : Bool := anyBit control c.controlLed1

/-- The button-pressed bit of `STATUS` (rule R26). -/
def buttonPressed (c : Cfg) (status : Byte) : Bool := anyBit status c.statusButton

/-- The opto-active bit of `STATUS` (rule R26). -/
def optoActive (c : Cfg) (status : Byte) : Bool := anyBit status c.statusOpto

end Sys2Proof.Machine
end

