-- ==== Sys2Proof/Machine/Operands.lean ====
section
/-! DEFINITION. Operand forms: the codes of the two state machines (spec/30_encoding.md rules R65, R66), the fields of
a bus event and of its address byte (R62, R70), the decode words built from the state (R68, R78), operand assembly
(R71) and the pointer increment (spec/41_bus_slave_protocol.md rule R102). -/

namespace Sys2Proof.Machine

/-- The code of a PowerState (rule R65). -/
def pstateCode : PState → BitVec 3
  | .init => 0
  | .clearMask => 1
  | .off => 2
  | .offPowerGood => 3
  | .poweringOn => 4
  | .poweringOff => 5
  | .on => 6
  | .unknown => 7

/-- The PowerState with a given code (rule R65). -/
def pstateOfCode (code : BitVec 3) : PState :=
  match code.toNat with
  | 0 => .init
  | 1 => .clearMask
  | 2 => .off
  | 3 => .offPowerGood
  | 4 => .poweringOn
  | 5 => .poweringOff
  | 6 => .on
  | _ => .unknown

/-- The code of a bus-protocol state (rule R66). -/
def bstateCode : BState → BitVec 2
  | .idle => 0
  | .addressSelect => 1
  | .writing => 2
  | .reading => 3

/-- The bus-protocol state with a given code (rule R66). -/
def bstateOfCode (code : BitVec 2) : BState :=
  match code.toNat with
  | 0 => .idle
  | 1 => .addressSelect
  | 2 => .writing
  | _ => .reading

/-- `bev`, the kind of a bus event: 0 start, 1 byte received, 2 byte requested, 3 stop (rule R70). -/
def busEventKind (w : BitVec 10) : BitVec 2 := w.extractLsb' 8 2

/-- The payload of a bus event (rule R70). -/
def busEventPayload (w : BitVec 10) : Byte := w.extractLsb' 0 8

/-- `own`: the address byte names this slave (rules R62, R78). -/
def ownAddress (c : Cfg) (ab : Byte) : Bool := ab.extractLsb' 1 7 == c.slaveAddr

/-- The `STEP` word of a step evaluation, `{pstate[2:0], rail_good, power_good}` (rule R68). -/
def stepWord (s : State) : BitVec 5 :=
  pstateCode s.pstate ++ BitVec.ofBool s.railGood ++ BitVec.ofBool s.powerGood

/-- The `BUS_DEC` word of a bus event, `{bus_en, bstate[1:0], bev[1:0], own, dir}` (rule R78). For the event kinds
where `own` and `dir` are don't-care they are 0. -/
def busWord (s : State) (w : BitVec 10) : BitVec 7 :=
  let ab := busEventPayload w
  let start := busEventKind w == 0
  BitVec.ofBool s.busEn ++ bstateCode s.bstate ++ busEventKind w
    ++ BitVec.ofBool (start && ownAddress s.cfg ab) ++ BitVec.ofBool (start && ab.getLsbD 0)

/-- Byte `i` of a wide operand, little-endian (rules R48, R71). -/
def byteOf (v : Word32) (i : Nat) : Byte := v.extractLsb' (8 * i) 8

/-- A wide value from its four bytes, `{B3, B2, B1, B0}` (rules R45, R71). -/
def assemble32 (b0 b1 b2 b3 : Byte) : Word32 := b3 ++ b2 ++ b1 ++ b0

/-- `zext_32` (rule R69). -/
def zext32 (b : Byte) : Word32 := b.setWidth 32

/-- `LAST`, the greatest address of `Defined` (rule R8). -/
def lastAddr (c : Cfg) : Addr :=
  c.regs.foldr (fun r m => if m < r.addr then r.addr else m) 0

/-- `inc`, the pointer increment (rule R102): past `LAST` it wraps to 0. -/
def inc (c : Cfg) (p : Addr) : Addr :=
  if lastAddr c ≤ p then 0 else p + 1

/-- The restart delay as the consumer of `ArmCountdown` assembles it (rules R29, R71, conflict C1). -/
def restartTotal (hours minutes seconds : Byte) : Nat :=
  3600 * hours.toNat + 60 * minutes.toNat + seconds.toNat

end Sys2Proof.Machine
end

