-- ==== Sys2Proof/Machine/Ops.lean ====
section
/-! DEFINITION. The named operations over the register file and the state that the meanings share: the access
primitives (spec/20_memory.md rules R45, R46, R57), start and stop of the bus slave (R100, R101), the delivery of an
interrupt (R147), the start-event handler (R128), rail actuation, and the one exception of the block,
`HardwareReset` (R11, R145, R150). An interrupt saves nothing and its return is implicit (R143, R144). -/

namespace Sys2Proof.Machine

/-! ## The register file as memory -/

/-- What cell `n` reads as while nothing is listed for it: the reset value of the register there (column "Reset
value" of rule R24, rule R38), and 0 where `Defined` has no register (rule R45). Assumption log entries 7 and 8. -/
def unlistedByte (c : Cfg) (n : Nat) : Byte :=
  match c.regDef? n with
  | none => 0
  | some r =>
    if r.addr = c.addrOf .mcusr then powerUpCause
    else if r.addr = c.addrOf .status then 0
    else if r.addr = c.addrOf .startReason then 0
    else if r.addr = c.addrOf .capability then c.capabilityVal
    else if r.addr = c.addrOf .boardType then c.boardTypeVal
    else if r.addr = c.addrOf .boardRev then c.boardRevVal
    else if r.addr = c.addrOf .boardStep then c.boardStepVal
    else if r.addr = c.addrOf .extended then c.extSentinel
    else if r.addr = c.addrOf .i2cAddress then c.slaveAddr.setWidth 8
    else r.resetImage

/-- Cell `n` of a memory whose unlisted cells read as `d` says. -/
def Memory.read (d : Nat → Byte) : Memory → Nat → Byte
  | [], n => d n
  | (k, v) :: m, n => if k = n then v else Memory.read d m n

/-- List value `v` for cell `n`, at its place. -/
def Memory.insert : Memory → Nat → Byte → Memory
  | [], n, v => [(n, v)]
  | (k, w) :: m, n, v =>
    if n < k then (n, v) :: (k, w) :: m
    else if n = k then (n, v) :: m
    else (k, w) :: Memory.insert m n v

/-- Write cell `n`. The form stays canonical: a cell that holds what it reads as unlisted is not listed. -/
def Memory.write (d : Nat → Byte) (m : Memory) (n : Nat) (v : Byte) : Memory :=
  if v = d n then m.filter fun cell => cell.1 ≠ n else m.insert n v

/-- The canonical form: addresses strictly rising, every cell at an address of `Defined`, none holding what it
reads as unlisted. -/
def Memory.wf (c : Cfg) (m : Memory) : Bool :=
  decide (m.Pairwise fun a b => a.1 < b.1)
    && m.all fun cell => c.defines cell.1 && cell.2 != unlistedByte c cell.1

/-! ## The access primitives -/

/-- `MemRead(a, 1)` (rule R45): 0 outside `Defined`. -/
def readByte (s : State) (n : Nat) : Byte :=
  if s.cfg.defines n then s.reg.read (unlistedByte s.cfg) n else 0

/-- `MemWrite(a, 1, v)` (rule R46): nothing outside `Defined`. -/
def writeByte (s : State) (n : Nat) (v : Byte) : State :=
  if s.cfg.defines n then { s with reg := s.reg.write (unlistedByte s.cfg) n v } else s

/-- `MemRead(a, 4)` (rule R45): little-endian; a sum above 0xFF names no register and reads 0. -/
def read32 (s : State) (a : Addr) : Word32 :=
  assemble32 (readByte s a.toNat) (readByte s (a.toNat + 1)) (readByte s (a.toNat + 2))
    (readByte s (a.toNat + 3))

/-- `MemWrite(a, 4, v)` (rule R46). -/
def write32 (s : State) (a : Addr) (v : Word32) : State :=
  writeByte (writeByte (writeByte (writeByte s a.toNat (byteOf v 0)) (a.toNat + 1) (byteOf v 1))
    (a.toNat + 2) (byteOf v 2)) (a.toNat + 3) (byteOf v 3)

/-- A named register. -/
def readReg (s : State) (r : RegName) : Byte := readByte s (s.cfg.addrOf r).toNat

/-- Write a named register. -/
def writeReg (s : State) (r : RegName) (v : Byte) : State := writeByte s (s.cfg.addrOf r).toNat v

/-- "bitwise OR in place" (rules R53, R82). -/
def setBits (s : State) (a : Addr) (bits : Byte) : State :=
  writeByte s a.toNat (readByte s a.toNat ||| bits)

/-- "bitwise AND-NOT in place" (rules R53, R83). -/
def clearBits (s : State) (a : Addr) (bits : Byte) : State :=
  writeByte s a.toNat (readByte s a.toNat &&& ~~~bits)

/-! ## The bus port -/

/-- The documented range of the register at `a` (rules R33, R57). -/
def inRange (c : Cfg) (a : Addr) (v : Byte) : Bool :=
  if a = c.addrOf .i2cIcharge then v ≤ 3
  else if a = c.addrOf .i2cTcharge then 3 ≤ v && v ≤ 10
  else if a = c.addrOf .wdtStop then 1 ≤ v
  else true

/-- The capability that gates the register at `a` is there (rule R57, test 3). DESIGN CHOICE, assumption log entry 35:
`I2C_ADDRESS`, which rule R33 calls "gated by capability" and test 3 pairs with no bit, is not gated. -/
def capOpen (c : Cfg) (a : Addr) : Bool :=
  if a = c.addrOf .i2cIcharge ∨ a = c.addrOf .i2cTcharge then
    anyBit c.capabilityVal c.capCharger && decide (c.minChargeStep ≤ c.boardStepVal)
  else if a = c.addrOf .wdtReset ∨ a = c.addrOf .wdtPower ∨ a = c.addrOf .wdtStop ∨ a = c.addrOf .wdtStart then
    anyBit c.capabilityVal c.capWdt
  else if a = c.addrOf .seconds0 ∨ a = c.addrOf .seconds1 ∨ a = c.addrOf .seconds2 ∨ a = c.addrOf .seconds3 then
    anyBit c.capabilityVal c.capRtc
  else true

/-- `accept(a, v)`: whether a byte streamed by the bus master is stored (rule R57). -/
def accept (c : Cfg) (a : Addr) (v : Byte) : Bool :=
  (c.classOf a != some .ro || c.roBusWrite == .store)
    && (c.rangeCheck == .off || inRange c a v)
    && (c.capGate == .off || capOpen c a)

/-- The store access of the bus port (rule R86). -/
def busStore (s : State) (a : Addr) (v : Byte) : State :=
  if accept s.cfg a v then writeByte s a.toNat v else s

/-- The read access of the bus port (rule R87): "Identical to `GET8`". -/
def busLoad (s : State) (a : Addr) : Byte := readByte s a.toNat

/-- "start BusSlaveProtocol" (rule R100). -/
def startBus (s : State) : State := { s with busEn := true, bstate := .idle, ptr := 0 }

/-- "stop BusSlaveProtocol" (rule R101). -/
def stopBus (s : State) : State := { s with busEn := false, bstate := .idle, ptr := 0 }

/-- The end of this slave's transaction: `Idle`, pointer 0 (rules R93, R99). -/
def endTransaction (s : State) : State := { s with bstate := .idle, ptr := 0 }

/-- Advance the pointer (rule R102). -/
def advancePtr (s : State) : State := { s with ptr := inc s.cfg s.ptr }

/-! ## Ports, interrupts, draws -/

/-- What the operation returns to its port. -/
def reply (s : State) (a : Answer) : State := { s with answer := a }

/-- Append an output event (rule R11, `emit`). -/
def emit (s : State) (e : OutEvent) : State := { s with trace := s.trace ++ [e] }

/-- Deliver an enabled interrupt: it first ends the suspension (rule R147). Nothing is saved (rule R143). -/
def deliver (s : State) : State := { s with sleeping := false }

/-- One more free value drawn (assumption log entry 6). -/
def drawn (s : State) : State := { s with draws := s.draws + 1 }

/-! ## The power controller -/

/-- `HANDLE_START_EVENT(reason)` (rule R128): both tests guard both effects. -/
def handleStart (s : State) (reason : Byte) : State :=
  if startAdmitted s.pstate reason (readReg s .startEnable) then
    { writeReg s .startReason (readReg s .startReason ||| reason) with pstate := .poweringOn }
  else s

/-- A start-interrupt request of source `i`: delivered only while its enable bit is set (rules R129 to R131). -/
def startRequest (s : State) (i : Nat) (reason : Byte) : State :=
  if irqEnabled s.irqStart i then handleStart (deliver s) reason else s

/-- The effects of the two `ClearMask` rows (rules R114, R115), in their order, but for the next state. -/
def leaveClearMask (s : State) : State :=
  let s := { s with irqStart := irqStartOf (readReg s .startEnable) }
  let s := emit s (.armCountdown (readReg s .restartHours) (readReg s .restartMinutes) (readReg s .restartSeconds))
  writeReg s .startReason 0x00

/-- "actuate rail-on" (rule R122). -/
def actuateRailOn (s : State) : State := emit { s with railCmd := true } .railOn

/-- "actuate rail-off" (rule R123). -/
def actuateRailOff (s : State) : State := emit { s with railCmd := false } .railOff

/-! ## The one exception -/

/-- `raise HardwareReset(cause)` (rules R11, R145, R150): every register at its reset value, the cause in `MCUSR`,
`rail_cmd` a draw, the main loop at its start. The configuration, the schedule and the levels are the environment's
and stay (assumption log entry 29). -/
def hardwareReset (s : State) (cause : Byte) : State :=
  let s := writeReg { s with reg := [] } .mcusr cause
  { s with
    pstate := .init
    busEn := false
    bstate := .idle
    ptr := 0
    irqStart := 0
    sleeping := false
    railCmd := Config.freeBit s.draws
    draws := s.draws + 1
    trace := []
    mainPhase := .ready }

end Sys2Proof.Machine
end

