-- ==== Sys2Proof/Machine/Store.lean ====
section
/-! DEFINITION. The register-store operations (spec/40_register_store_ops.md rules R80 to R87): six on the firmware
port, and the two accesses of the bus port. No operation of this family writes a flag or `sleeping`, none fails. -/

namespace Sys2Proof.Machine

/-- What the machine answers; every meaning of the block completes. -/
abbrev Result := Host.Outcome State Fault Refusal

/-- What a read returns on the firmware port (rule R69). -/
def dataAnswer (v : Word32) : Answer := ⟨none, none, some v⟩

/-- `GET8` (rule R80). -/
def execGet8 (addr : Addr) (s : State) : Result :=
  .next (reply s (dataAnswer (zext32 (readByte s addr.toNat))))

/-- `SET8` (rule R81). -/
def execSet8 (addr : Addr) (v : Byte) (s : State) : Result :=
  .next (reply (writeByte s addr.toNat v) .none)

/-- `SET_MASK` (rule R82). -/
def execSetMask (addr : Addr) (bits : Byte) (s : State) : Result :=
  .next (reply (setBits s addr bits) .none)

/-- `CLEAR_MASK` (rule R83). -/
def execClearMask (addr : Addr) (bits : Byte) (s : State) : Result :=
  .next (reply (clearBits s addr bits) .none)

/-- `GET32` (rule R84). -/
def execGet32 (addr : Addr) (s : State) : Result :=
  .next (reply s (dataAnswer (read32 s addr)))

/-- `SET32` (rule R85). -/
def execSet32 (addr : Addr) (v : Word32) (s : State) : Result :=
  .next (reply (write32 s addr v) .none)

/-- `BUS_READ8` (rule R87). -/
def execBusRead8 (addr : Addr) (s : State) : Result :=
  .next (reply s (dataAnswer (zext32 (busLoad s addr))))

/-- `BUS_WRITE8` (rule R86). -/
def execBusWrite8 (addr : Addr) (v : Byte) (s : State) : Result :=
  .next (reply (busStore s addr v) .none)

end Sys2Proof.Machine
end

