-- ==== Sys2Proof/Machine/Bus.lean ====
section
/-! DEFINITION. The two-wire bus slave (spec/41_bus_slave_protocol.md rules R91 to R103). Every event handled while
`bus_en = 1` (R91 to R99) is an enabled interrupt and so also ends the suspension (R147). A meaning does what its
rule's pseudocode says; that the event selects it is the decoder's (assumption log entry 19). -/

namespace Sys2Proof.Machine

/-- What a start or received-byte event returns (rule R106). -/
def ackAnswer (ack : Bool) : Answer := ⟨some ack, none, none⟩

/-- What a byte-request event returns (rule R97). -/
def txAnswer (b : Byte) : Answer := ⟨none, some b, none⟩

/-- `BUS_START_W` (rule R91). The pointer keeps its value. -/
def execBusStartW (s : State) : Result :=
  .next (reply { deliver s with bstate := .addressSelect } (ackAnswer true))

/-- `BUS_START_R` (rule R92). The pointer keeps its value. -/
def execBusStartR (s : State) : Result :=
  .next (reply { deliver s with bstate := .reading } (ackAnswer true))

/-- `BUS_START_OTHER` (rule R93). -/
def execBusStartOther (s : State) : Result :=
  .next (reply (endTransaction (deliver s)) (ackAnswer false))

/-- `BUS_RX_ADDR` (rule R94). -/
def execBusRxAddr (b : Byte) (s : State) : Result :=
  .next (reply { deliver s with ptr := b, bstate := .writing } (ackAnswer true))

/-- `BUS_RX_DATA` (rule R95): the pointer advances whether or not the byte was stored. -/
def execBusRxData (b : Byte) (s : State) : Result :=
  .next (reply (advancePtr (busStore (deliver s) s.ptr b)) (ackAnswer true))

/-- `BUS_RX_IGN` in `Idle` (rule R96). -/
def execBusRxIgnIdle (s : State) : Result :=
  .next (reply (deliver s) (ackAnswer false))

/-- `BUS_RX_IGN` in `Reading` (rule R96). -/
def execBusRxIgnReading (s : State) : Result :=
  .next (reply (deliver s) (ackAnswer false))

/-- `BUS_TX_DATA` (rule R97). -/
def execBusTxData (s : State) : Result :=
  .next (reply (advancePtr (deliver s)) (txAnswer (busLoad s s.ptr)))

/-- A byte request that the slave does not serve: the master sees a draw (rule R98). -/
def undrivenByte (s : State) : State :=
  reply (drawn (deliver s)) (txAnswer (Config.freeByte s.draws))

/-- `BUS_TX_IGN` in `Idle` or `AddressSelect` (rule R98). -/
def execBusTxIgnUnaddressed (s : State) : Result := .next (undrivenByte s)

/-- `BUS_TX_IGN` in `Writing` (rule R98). -/
def execBusTxIgnWriting (s : State) : Result := .next (undrivenByte s)

/-- `BUS_STOP` (rule R99). -/
def execBusStop (s : State) : Result :=
  .next (reply (endTransaction (deliver s)) .none)

/-- `BUS_OFF_IGN` (rule R103): no state change, no acknowledge, and no wake (rule R147). -/
def execBusOffIgn (s : State) : Result :=
  .next (reply (drawn s) ⟨some false, some (Config.freeByte s.draws), none⟩)

/-- `BUS_ENABLE` (rule R100). -/
def execBusEnable (s : State) : Result := .next (reply (startBus s) .none)

/-- `BUS_DISABLE` (rule R101). -/
def execBusDisable (s : State) : Result := .next (reply (stopBus s) .none)

end Sys2Proof.Machine
end

