-- ==== Sys2Proof/Syntax.lean ====
section
/-! DEFINITION. The operations of the block: one constructor per row of spec/opcode_table.json (the closed list of
spec/30_encoding.md rule R61). `BUS_RX_IGN` and `BUS_TX_IGN` have two rows each and so two constructors each. -/

namespace Sys2Proof

/-- The operations of rule R61, family by family in the table's order. -/
inductive Instr where
  -- STORE_OP, the firmware port (rules R80 to R85)
  | get8 (addr : Addr)
  | set8 (addr : Addr) (v : Byte)
  | setMask (addr : Addr) (bits : Byte)
  | clearMask (addr : Addr) (bits : Byte)
  | get32 (addr : Addr)
  | set32 (addr : Addr) (v : Word32)
  -- INTERNAL: selected from no port, run inside another operation (rules R86, R87, R100, R101)
  | busRead8 (addr : Addr)
  | busWrite8 (addr : Addr) (v : Byte)
  | busEnable
  | busDisable
  -- BUS_DEC, one bus event (rules R91 to R99, R103); `ab` is the address byte of a start condition
  | busOffIgn
  | busStartW (ab : Byte)
  | busStartR (ab : Byte)
  | busStartOther (ab : Byte)
  | busRxAddr (b : Byte)
  | busRxData (b : Byte)
  | busRxIgnIdle (b : Byte)
  | busRxIgnReading (b : Byte)
  | busTxData
  | busTxIgnUnaddressed
  | busTxIgnWriting
  | busStop
  -- STEP, the rows of the transition table (rules R112 to R126)
  | stepInitUp
  | stepInitDown
  | stepClearMaskPg
  | stepClearMaskNoPg
  | stepOffHold
  | stepOffPg
  | stepOffPgDrop
  | stepOffPgHold
  | stepOnHold
  | stepPonDone
  | stepPonRetry
  | stepPoff
  | stepOnFail
  | stepUnkUp
  | stepUnkDown
  -- PWR_EVT, the controller port (rules R111, R127 to R132, R140, R150)
  | step
  | requestPowerDown
  | handleStartEvent (reason : Byte)
  | irqStartButton
  | irqStartOpto
  | irqStartTimeout
  | mainIter
  | reset (cause : Byte)
  | wake
  deriving DecidableEq, Repr

/-- The formats of the opcode table (rules R61, R68, R69, R70, R78). -/
inductive Format where
  | storeOp | internal | busDec | stepDec | pwrEvt
  deriving DecidableEq, Repr

/-- The format column of spec/opcode_table.json. -/
def Instr.format : Instr → Format
  | .get8 _ | .set8 _ _ | .setMask _ _ | .clearMask _ _ | .get32 _ | .set32 _ _ => .storeOp
  | .busRead8 _ | .busWrite8 _ _ | .busEnable | .busDisable => .internal
  | .busOffIgn | .busStartW _ | .busStartR _ | .busStartOther _ | .busRxAddr _ | .busRxData _
  | .busRxIgnIdle _ | .busRxIgnReading _ | .busTxData | .busTxIgnUnaddressed | .busTxIgnWriting
  | .busStop => .busDec
  | .stepInitUp | .stepInitDown | .stepClearMaskPg | .stepClearMaskNoPg | .stepOffHold | .stepOffPg
  | .stepOffPgDrop | .stepOffPgHold | .stepOnHold | .stepPonDone | .stepPonRetry | .stepPoff
  | .stepOnFail | .stepUnkUp | .stepUnkDown => .stepDec
  | .step | .requestPowerDown | .handleStartEvent _ | .irqStartButton | .irqStartOpto
  | .irqStartTimeout | .mainIter | .reset _ | .wake => .pwrEvt

end Sys2Proof
end

