-- ==== Sys2Proof/WellFormed.lean ====
section
/-! DEFINITION. Well-formedness: of a configuration (the constraints of spec/00_scope.md rule R9) and of an
operation's operands under it (spec/41_bus_slave_protocol.md rules R91 to R93: what the address byte must be). -/

namespace Sys2Proof

/-- A byte with exactly one bit set. -/
def oneHot (b : Byte) : Bool :=
  (List.range 8).any fun i => b == 1#8 <<< i

/-- A group of bit positions: one-hot and pairwise different, so pairwise disjoint (rule R9, last constraint). -/
def bitGroup (bs : List Byte) : Bool :=
  bs.all oneHot && decide bs.Nodup

/-- `Defined` is listed once each, in ascending order (the form of the list, not a rule of the spec). -/
def Cfg.regsAscending (c : Cfg) : Bool :=
  decide (c.regs.Pairwise fun r q => r.addr.toNat < q.addr.toNat)

/-- "the named addresses are pairwise distinct" (rule R9). -/
def Cfg.namesDistinct (c : Cfg) : Bool :=
  decide (RegName.all.map c.addrOf).Nodup

/-- "and all lie in `Defined`" (rule R9), each with the class rule R24 gives it. -/
def Cfg.namesDefined (c : Cfg) : Bool :=
  RegName.all.all fun n => c.classOf (c.addrOf n) == some n.cls

/-- `ADDR_SECONDS_1 = ADDR_SECONDS_0 + 1` and so on, as plain numbers (rule R9): the four addresses do not wrap. -/
def Cfg.secondsFit (c : Cfg) : Bool :=
  decide (c.addr.seconds0.toNat + 3 ≤ 0xFF)

/-- The bit groups of `CONTROL`, `STATUS` and `CAPABILITY` (rule R9). The `START_*` bytes are fixed by rule R8 and
meet the constraint (`Machine/Flags.lean`). -/
def Cfg.bitGroupsOk (c : Cfg) : Bool :=
  bitGroup [c.controlCe, c.controlBootload, c.controlLed0, c.controlLed1]
    && bitGroup [c.statusButton, c.statusOpto]
    && bitGroup [c.capRtc, c.capWdt, c.capCharger, c.capAddr]

/-- "every address used by PowerController or BusSlaveProtocol must exist in the file" (rule R9): the named addresses
are `namesDefined`; the one other address the two use is 0x00, where every stop, start of the protocol and wrap puts the
pointer (rules R93, R99 to R102; decision D7: "address 0 exists"). -/
def Cfg.zeroDefined (c : Cfg) : Bool :=
  c.defines 0

/-- The constraints every instantiation of `Cfg` must meet (rule R9). -/
def Cfg.wellFormed (c : Cfg) : Bool :=
  c.regsAscending && c.zeroDefined && c.namesDistinct && c.namesDefined && c.secondsFit && c.bitGroupsOk

/-- The operands of an operation are what its rule demands under `c`: the address byte of `BUS_START_W` is
`{SLAVE_ADDR, 0}`, that of `BUS_START_R` `{SLAVE_ADDR, 1}`, that of `BUS_START_OTHER` names another device (R91 to
R93). Every other operand is free. -/
def Instr.wellFormed (c : Cfg) : Instr → Bool
  | .busStartW ab => ab == c.slaveAddr ++ 0#1
  | .busStartR ab => ab == c.slaveAddr ++ 1#1
  | .busStartOther ab => ab.extractLsb' 1 7 != c.slaveAddr
  | .get8 _ | .set8 _ _ | .setMask _ _ | .clearMask _ _ | .get32 _ | .set32 _ _
  | .busRead8 _ | .busWrite8 _ _ | .busEnable | .busDisable
  | .busOffIgn | .busRxAddr _ | .busRxData _ | .busRxIgnIdle _ | .busRxIgnReading _
  | .busTxData | .busTxIgnUnaddressed | .busTxIgnWriting | .busStop
  | .stepInitUp | .stepInitDown | .stepClearMaskPg | .stepClearMaskNoPg | .stepOffHold | .stepOffPg
  | .stepOffPgDrop | .stepOffPgHold | .stepOnHold | .stepPonDone | .stepPonRetry | .stepPoff
  | .stepOnFail | .stepUnkUp | .stepUnkDown
  | .step | .requestPowerDown | .handleStartEvent _ | .irqStartButton | .irqStartOpto
  | .irqStartTimeout | .mainIter | .reset _ | .wake => true

end Sys2Proof
end

