-- ==== Sys2Proof/Decode.lean ====
section
/-! DEFINITION. The decoder and the encoder, from the formats of spec/30_encoding.md (rules R61, R68, R69, R70, R78).
The block fetches no instruction stream; what is decoded is one operation word of one of the five formats of
spec/opcode_table.json. A bus event reaches the decoder as its BUS_DEC word with the event's payload byte, a `step`
event's row as its STEP word (`Machine/Select.lean` builds both from the state). -/

namespace Sys2Proof

/-- One operation word, in one of the formats of the opcode table. INTERNAL operations have no port encoding (rule
R61): the word `{v[7:0], addr[7:0], iop[1:0]}` is the model's own, assumption log entry 15. -/
inductive OpWord where
  /-- `STORE_OP`, `{op[2:0], addr[7:0], data[31:0]}` (rule R69). -/
  | storeOp (w : BitVec 43)
  /-- `INTERNAL`, the index `iop` in bits 1:0 (rule R61), the operands above it. -/
  | internal (w : BitVec 18)
  /-- `BUS_DEC`, `{bus_en, bstate[1:0], bev[1:0], own, dir}` (rule R78), with the event's payload byte (rule R70). -/
  | busDec (bd : BitVec 7) (payload : Byte)
  /-- `STEP`, `{pstate[2:0], rail_good, power_good}` (rule R68). -/
  | stepDec (sw : BitVec 5)
  /-- `PWR_EVT`, `{pev[2:0], payload[7:0]}` (rule R70). -/
  | pwrEvt (w : BitVec 11)
  deriving DecidableEq, Repr

/-- Why a word names no operation. The first three are the reserved codes of rule R72, for which nothing happens. -/
inductive Reject where
  /-- `STORE_OP` with `op` 6 or 7 (rule R69). -/
  | reservedStoreOp
  /-- `PWR_EVT` with `pev` 7 (rule R70). -/
  | reservedPwrEvent
  /-- A start-interrupt request with source index 2: the power-good source has no interrupt (rule R70). -/
  | reservedStartSource
  /-- A BUS_DEC word whose `own`/`dir` are not those of its address byte: no bus event gives such a word (R78). -/
  | startByteMismatch
  deriving DecidableEq, Repr

/-! ## STEP (rule R68) -/

/-- The fifteen rows of the transition table. -/
inductive StepRow where
  | initUp | initDown | clearMaskPg | clearMaskNoPg | offHold | offPg | offPgDrop | offPgHold
  | onHold | ponDone | ponRetry | poff | onFail | unkUp | unkDown
  deriving DecidableEq, Repr

/-- The operation of each row. -/
def StepRow.instr : StepRow → Instr
  | .initUp => .stepInitUp
  | .initDown => .stepInitDown
  | .clearMaskPg => .stepClearMaskPg
  | .clearMaskNoPg => .stepClearMaskNoPg
  | .offHold => .stepOffHold
  | .offPg => .stepOffPg
  | .offPgDrop => .stepOffPgDrop
  | .offPgHold => .stepOffPgHold
  | .onHold => .stepOnHold
  | .ponDone => .stepPonDone
  | .ponRetry => .stepPonRetry
  | .poff => .stepPoff
  | .onFail => .stepOnFail
  | .unkUp => .stepUnkUp
  | .unkDown => .stepUnkDown

/-- The table of rule R68: `(match, mask, row)`. -/
def stepTable : List (BitVec 5 × BitVec 5 × StepRow) :=
  [(0x02, 0x1E, .initUp), (0x00, 0x1E, .initDown),
   (0x05, 0x1D, .clearMaskPg), (0x04, 0x1D, .clearMaskNoPg),
   (0x08, 0x1D, .offHold), (0x09, 0x1D, .offPg),
   (0x0C, 0x1D, .offPgDrop), (0x0D, 0x1D, .offPgHold),
   (0x1A, 0x1E, .onHold),
   (0x12, 0x1E, .ponDone), (0x10, 0x1E, .ponRetry),
   (0x14, 0x1C, .poff),
   (0x18, 0x1E, .onFail),
   (0x1E, 0x1E, .unkUp), (0x1C, 0x1E, .unkDown)]

/-- The rows of rule R68 that select `sw`. -/
def stepRowsOf (sw : BitVec 5) : List StepRow :=
  (stepTable.filter fun r => sw &&& r.2.1 == r.1).map fun r => r.2.2

/-- The row that selects `sw`. Exactly one does (`Laws/Decode.lean`, `stepRowsOf_singleton`), so the default is
never taken. -/
def decodeStep (sw : BitVec 5) : StepRow :=
  (stepRowsOf sw).headD .unkDown

/-! ## BUS_DEC (rule R78) -/

/-- The table of rule R78: `(match, mask, operation with the payload byte as its operand)`. -/
def busTable : List (BitVec 7 × BitVec 7 × (Byte → Instr)) :=
  [(0x00, 0x40, fun _ => .busOffIgn),
   (0x42, 0x4F, .busStartW),
   (0x43, 0x4F, .busStartR),
   (0x40, 0x4E, .busStartOther),
   (0x54, 0x7C, .busRxAddr),
   (0x64, 0x7C, .busRxData),
   (0x44, 0x7C, .busRxIgnIdle),
   (0x74, 0x7C, .busRxIgnReading),
   (0x78, 0x7C, fun _ => .busTxData),
   (0x48, 0x6C, fun _ => .busTxIgnUnaddressed),
   (0x68, 0x7C, fun _ => .busTxIgnWriting),
   (0x4C, 0x4C, fun _ => .busStop)]

/-- The rows of rule R78 that select `bd`. -/
def busRowsOf (bd : BitVec 7) : List (Byte → Instr) :=
  (busTable.filter fun r => bd &&& r.2.1 == r.1).map fun r => r.2.2

/-- The operation that `bd` selects. Exactly one row does (`Laws/Decode.lean`), so the default is never taken. -/
def decodeBus (bd : BitVec 7) (payload : Byte) : Instr :=
  (busRowsOf bd).headD (fun _ => .busOffIgn) payload

/-! ## The decoder -/

/-- `STORE_OP` (rule R69): `op` 0 to 5 are the six store operations, 6 and 7 are reserved. -/
def decodeStore (w : BitVec 43) : Except Reject Instr :=
  let addr := w.extractLsb' 32 8
  match (w.extractLsb' 40 3).toNat with
  | 0 => .ok (.get8 addr)
  | 1 => .ok (.set8 addr (w.extractLsb' 0 8))
  | 2 => .ok (.setMask addr (w.extractLsb' 0 8))
  | 3 => .ok (.clearMask addr (w.extractLsb' 0 8))
  | 4 => .ok (.get32 addr)
  | 5 => .ok (.set32 addr (w.extractLsb' 0 32))
  | _ => .error .reservedStoreOp

/-- `INTERNAL` (rule R61): `iop` 0 to 3 in the rule's order. -/
def decodeInternal (w : BitVec 18) : Instr :=
  let addr := w.extractLsb' 2 8
  match (w.extractLsb' 0 2).toNat with
  | 0 => .busRead8 addr
  | 1 => .busWrite8 addr (w.extractLsb' 10 8)
  | 2 => .busEnable
  | _ => .busDisable

/-- `PWR_EVT` (rule R70). -/
def decodePwr (w : BitVec 11) : Except Reject Instr :=
  let payload := w.extractLsb' 0 8
  match (w.extractLsb' 8 3).toNat with
  | 0 => .ok .step
  | 1 => .ok .requestPowerDown
  | 2 => .ok (.handleStartEvent payload)
  | 3 =>
    match (w.extractLsb' 0 2).toNat with
    | 0 => .ok .irqStartButton
    | 1 => .ok .irqStartOpto
    | 3 => .ok .irqStartTimeout
    | _ => .error .reservedStartSource
  | 4 => .ok .mainIter
  | 5 => .ok (.reset payload)
  | 6 => .ok .wake
  | _ => .error .reservedPwrEvent

/-- The decoder: total, rejecting by name. `c` is read only to hold the address byte of a start condition against
`SLAVE_ADDR` (rules R62, R78). -/
def decode (c : Cfg) : OpWord → Except Reject Instr
  | .storeOp w => decodeStore w
  | .internal w => .ok (decodeInternal w)
  | .busDec bd payload =>
    let i := decodeBus bd payload
    if i.wellFormed c then .ok i else .error .startByteMismatch
  | .stepDec sw => .ok (decodeStep sw).instr
  | .pwrEvt w => decodePwr w

/-! ## The encoder -/

/-- The word of an operation, from the same tables; a bit the format does not care about is 0. -/
def encode : Instr → OpWord
  | .get8 addr => .storeOp (0#3 ++ addr ++ 0#32)
  | .set8 addr v => .storeOp (1#3 ++ addr ++ (0#24 ++ v))
  | .setMask addr bits => .storeOp (2#3 ++ addr ++ (0#24 ++ bits))
  | .clearMask addr bits => .storeOp (3#3 ++ addr ++ (0#24 ++ bits))
  | .get32 addr => .storeOp (4#3 ++ addr ++ 0#32)
  | .set32 addr v => .storeOp (5#3 ++ addr ++ v)
  | .busRead8 addr => .internal (0#8 ++ addr ++ 0#2)
  | .busWrite8 addr v => .internal (v ++ addr ++ 1#2)
  | .busEnable => .internal 2
  | .busDisable => .internal 3
  | .busOffIgn => .busDec 0x00 0
  | .busStartW ab => .busDec 0x42 ab
  | .busStartR ab => .busDec 0x43 ab
  | .busStartOther ab => .busDec 0x40 ab
  | .busRxAddr b => .busDec 0x54 b
  | .busRxData b => .busDec 0x64 b
  | .busRxIgnIdle b => .busDec 0x44 b
  | .busRxIgnReading b => .busDec 0x74 b
  | .busTxData => .busDec 0x78 0
  | .busTxIgnUnaddressed => .busDec 0x48 0
  | .busTxIgnWriting => .busDec 0x68 0
  | .busStop => .busDec 0x4C 0
  | .stepInitUp => .stepDec 0x02
  | .stepInitDown => .stepDec 0x00
  | .stepClearMaskPg => .stepDec 0x05
  | .stepClearMaskNoPg => .stepDec 0x04
  | .stepOffHold => .stepDec 0x08
  | .stepOffPg => .stepDec 0x09
  | .stepOffPgDrop => .stepDec 0x0C
  | .stepOffPgHold => .stepDec 0x0D
  | .stepOnHold => .stepDec 0x1A
  | .stepPonDone => .stepDec 0x12
  | .stepPonRetry => .stepDec 0x10
  | .stepPoff => .stepDec 0x14
  | .stepOnFail => .stepDec 0x18
  | .stepUnkUp => .stepDec 0x1E
  | .stepUnkDown => .stepDec 0x1C
  | .step => .pwrEvt 0x000
  | .requestPowerDown => .pwrEvt 0x100
  | .handleStartEvent reason => .pwrEvt (2#3 ++ reason)
  | .irqStartButton => .pwrEvt 0x300
  | .irqStartOpto => .pwrEvt 0x301
  | .irqStartTimeout => .pwrEvt 0x303
  | .mainIter => .pwrEvt 0x400
  | .reset cause => .pwrEvt (5#3 ++ cause)
  | .wake => .pwrEvt 0x600

/-- The format of a word. -/
def OpWord.format : OpWord → Format
  | .storeOp _ => .storeOp
  | .internal _ => .internal
  | .busDec _ _ => .busDec
  | .stepDec _ => .stepDec
  | .pwrEvt _ => .pwrEvt

/-! ## The words of spec/opcode_table.json as the host numbers them -/

/-- The address byte a start event has when its BUS_DEC word says `own`, `dir` (rule R78); for another device the
complement of `SLAVE_ADDR` stands for "any other address". -/
def startByte (c : Cfg) (bd : BitVec 7) : Byte :=
  (if bd.getLsbD 1 then c.slaveAddr else ~~~c.slaveAddr) ++ bd.extractLsb' 0 1

/-- A BUS_DEC word of the opcode table with the payload its event has: the address byte for a start event, else the
operand byte above the table's bits, which the host gives as zero. -/
def tableBusWord (c : Cfg) (bd : BitVec 7) : OpWord :=
  .busDec bd (if bd.extractLsb' 2 2 = 0 then startByte c bd else 0)

/-- A word of the opcode table as an operation word. The widths are 43 (STORE_OP), 2 (INTERNAL), 7 (BUS_DEC), 5
(STEP) and 11 (PWR_EVT), in whole bytes 48, 8, 8, 8 and 16. In 8 bits three formats overlap below 0x40; assumption
log entry 16 says which word is read how. -/
def tableOpWord (c : Cfg) (nbits w : Nat) : Option OpWord :=
  if nbits = 43 ∨ nbits = 48 then
    if w < 2 ^ 43 then some (.storeOp (BitVec.ofNat 43 w)) else none
  else if nbits = 11 ∨ nbits = 16 then
    if w < 2 ^ 11 then some (.pwrEvt (BitVec.ofNat 11 w)) else none
  else if nbits = 2 then
    if w < 2 ^ 2 then some (.internal (BitVec.ofNat 18 w)) else none
  else if nbits = 5 then
    if w < 2 ^ 5 then some (.stepDec (BitVec.ofNat 5 w)) else none
  else if nbits = 7 then
    if w < 2 ^ 7 then some (tableBusWord c (BitVec.ofNat 7 w)) else none
  else if nbits = 8 then
    if w = 1 ∨ w = 3 then some (.internal (BitVec.ofNat 18 w))
    else if w < 2 ^ 5 then some (.stepDec (BitVec.ofNat 5 w))
    else if w < 2 ^ 7 then some (tableBusWord c (BitVec.ofNat 7 w))
    else none
  else none

/-- The operation the decoder reads from a word of the opcode table, under `DEFAULT`. -/
def decodeTableWord (nbits w : Nat) : Option Instr :=
  match tableOpWord Machine.defaultCfg nbits w with
  | none => none
  | some x =>
    match decode Machine.defaultCfg x with
    | .ok i => some i
    | .error _ => none

end Sys2Proof
end

