-- ==== Sys2Proof/Machine/PowerRows.lean ====
section
/-! DEFINITION. The fifteen rows of the power controller's transition table (spec/42_power_controller.md rules R112 to
R126) and the `step` evaluation that selects one (R111). Each row is one atomic transition (R50). -/

namespace Sys2Proof.Machine

/-- What a row does, its micro-operations in the order of its rule. -/
def runRow (s : State) : StepRow → State
  | .initUp => { s with pstate := .poweringOn }
  | .initDown => { s with pstate := .poweringOff }
  | .clearMaskPg => { leaveClearMask s with pstate := .offPowerGood }
  | .clearMaskNoPg => { leaveClearMask s with pstate := .off }
  | .offHold => s
  | .offPg => handleStart { s with pstate := .offPowerGood } startPwrGood
  | .offPgDrop => { s with pstate := .off }
  | .offPgHold => s
  | .onHold => s
  | .ponDone => { startBus s with irqStart := 0, pstate := .on }
  | .ponRetry => actuateRailOn s
  | .poff => { actuateRailOff (stopBus s) with pstate := .clearMask }
  | .onFail => { s with pstate := .poweringOff }
  | .unkUp => { s with pstate := .poweringOn }
  | .unkDown => { s with pstate := .poweringOff }

/-- The row that the state and the sampled levels select (rules R68, R111). -/
def selectedRow (s : State) : StepRow := decodeStep (stepWord s)

/-- `step()` (rule R111): exactly one transition evaluation. -/
def stepOnce (s : State) : State := runRow s (selectedRow s)

/-- `STEP_INIT_UP` (rule R112). -/
def execStepInitUp (s : State) : Result := .next (reply (runRow s .initUp) .none)

/-- `STEP_INIT_DOWN` (rule R113). -/
def execStepInitDown (s : State) : Result := .next (reply (runRow s .initDown) .none)

/-- `STEP_CLEARMASK_PG` (rule R114). -/
def execStepClearMaskPg (s : State) : Result := .next (reply (runRow s .clearMaskPg) .none)

/-- `STEP_CLEARMASK_NOPG` (rule R115). -/
def execStepClearMaskNoPg (s : State) : Result := .next (reply (runRow s .clearMaskNoPg) .none)

/-- `STEP_OFF_HOLD` (rule R116). -/
def execStepOffHold (s : State) : Result := .next (reply (runRow s .offHold) .none)

/-- `STEP_OFF_PG` (rule R117). -/
def execStepOffPg (s : State) : Result := .next (reply (runRow s .offPg) .none)

/-- `STEP_OFFPG_DROP` (rule R118). -/
def execStepOffPgDrop (s : State) : Result := .next (reply (runRow s .offPgDrop) .none)

/-- `STEP_OFFPG_HOLD` (rule R119). -/
def execStepOffPgHold (s : State) : Result := .next (reply (runRow s .offPgHold) .none)

/-- `STEP_ON_HOLD` (rule R120). -/
def execStepOnHold (s : State) : Result := .next (reply (runRow s .onHold) .none)

/-- `STEP_PON_DONE` (rule R121). -/
def execStepPonDone (s : State) : Result := .next (reply (runRow s .ponDone) .none)

/-- `STEP_PON_RETRY` (rule R122). -/
def execStepPonRetry (s : State) : Result := .next (reply (runRow s .ponRetry) .none)

/-- `STEP_POFF` (rule R123). -/
def execStepPoff (s : State) : Result := .next (reply (runRow s .poff) .none)

/-- `STEP_ON_FAIL` (rule R124). -/
def execStepOnFail (s : State) : Result := .next (reply (runRow s .onFail) .none)

/-- `STEP_UNK_UP` (rule R125). -/
def execStepUnkUp (s : State) : Result := .next (reply (runRow s .unkUp) .none)

/-- `STEP_UNK_DOWN` (rule R126). -/
def execStepUnkDown (s : State) : Result := .next (reply (runRow s .unkDown) .none)

end Sys2Proof.Machine
end

