-- ==== Sys2Proof/Machine/Controller.lean ====
section
/-! DEFINITION. The events of the controller port (spec/42_power_controller.md rules R111, R127 to R132,
spec/60_exceptions.md rule R140, spec/70_reset_and_hazards.md rule R150). -/

namespace Sys2Proof.Machine

/-- `STEP` (rule R111): the one row that the state and the levels select. -/
def execStep (s : State) : Result := .next (reply (stepOnce s) .none)

/-- `REQUEST_POWER_DOWN` (rule R127): "no-op in any other state". -/
def execRequestPowerDown (s : State) : Result :=
  .next (reply (if s.pstate = .on then { s with pstate := .poweringOff } else s) .none)

/-- `HANDLE_START_EVENT` (rule R128). A direct call does not touch `sleeping` (rule R147). -/
def execHandleStartEvent (reason : Byte) (s : State) : Result :=
  .next (reply (handleStart s reason) .none)

/-- `IRQ_START_BUTTON` (rule R129). -/
def execIrqStartButton (s : State) : Result :=
  .next (reply (startRequest s 0 startButton) .none)

/-- `IRQ_START_OPTO` (rule R130). -/
def execIrqStartOpto (s : State) : Result :=
  .next (reply (startRequest s 1 startOpto) .none)

/-- `IRQ_START_TIMEOUT` (rule R131). -/
def execIrqStartTimeout (s : State) : Result :=
  .next (reply (startRequest s 3 startTimeout) .none)

/-- `WAKE` (rule R140). -/
def execWake (s : State) : Result := .next (reply (deliver s) .none)

/-- `RESET` (rule R150). -/
def execReset (cause : Byte) (s : State) : Result :=
  .next (reply (hardwareReset s cause) .none)

/-! ## The main loop (rule R132) -/

/-- `step` and `MAIN_ITER` themselves cannot run inside an iteration; every other operation may fall between two of
its parts (rules R58, R132). -/
def loopEvent : PortEvent → Bool
  | .pwr w => (w.extractLsb' 8 3).toNat == 0 || (w.extractLsb' 8 3).toNat == 4
  | .store _ | .bus _ | .internal _ => false

/-- The input falls at place `p` of an iteration (assumption log entry 12). -/
def due (p : MainPhase) (i : Input) : Bool := i.slot == p && !loopEvent i.event

/-- The next input falls at place `p` of an iteration. -/
def dueAt (p : MainPhase) (s : State) : Bool :=
  match s.inputs with
  | [] => false
  | i :: _ => due p i

/-- The third part: the suspension, "gated on 'current state is not fully-on.'", reading `pstate` as it is then. -/
def suspendPart (s : State) : State :=
  let s := { s with mainPhase := .ready }
  if s.pstate = .on then s else emit { s with sleeping := true } .sleep

/-- The second part: the heartbeat. The third follows at once unless an input falls between. -/
def kickPart (s : State) : State :=
  let s := emit s .wdtKick
  if dueAt .suspendDue s then { s with mainPhase := .suspendDue } else suspendPart s

/-- The first part: one `step` evaluation. The second follows at once unless an input falls between. -/
def stepPart (s : State) : State :=
  let s := stepOnce s
  if dueAt .kickDue s then { s with mainPhase := .kickDue } else kickPart s

/-- One iteration of the main loop, or what is left of the one in progress. -/
def runMain (s : State) : State :=
  match s.mainPhase with
  | .ready => stepPart s
  | .kickDue => kickPart s
  | .suspendDue => suspendPart s

/-- `MAIN_ITER` (rule R132). Precondition: `sleeping = 0`; while suspended the main loop does not move (R41). -/
def execMainIter (s : State) : Result :=
  .next (reply (if s.sleeping then s else runMain s) .none)

end Sys2Proof.Machine
end

