-- ==== Sys2Proof/Machine/Dispatch.lean ====
section
/-! DEFINITION. One arm per operation of the closed list (spec/30_encoding.md rule R61): each calls its meaning. -/

namespace Sys2Proof.Machine

def exec (i : Instr) (s : State) : Host.Outcome State Fault Refusal :=
  match i with
  | .get8 a => Sys2Proof.Machine.execGet8 a s
  | .set8 a v => Sys2Proof.Machine.execSet8 a v s
  | .setMask a b => Sys2Proof.Machine.execSetMask a b s
  | .clearMask a b => Sys2Proof.Machine.execClearMask a b s
  | .get32 a => Sys2Proof.Machine.execGet32 a s
  | .set32 a v => Sys2Proof.Machine.execSet32 a v s
  | .busRead8 a => Sys2Proof.Machine.execBusRead8 a s
  | .busWrite8 a v => Sys2Proof.Machine.execBusWrite8 a v s
  | .busEnable => Sys2Proof.Machine.execBusEnable s
  | .busDisable => Sys2Proof.Machine.execBusDisable s
  | .busOffIgn => Sys2Proof.Machine.execBusOffIgn s
  | .busStartW _ => Sys2Proof.Machine.execBusStartW s
  | .busStartR _ => Sys2Proof.Machine.execBusStartR s
  | .busStartOther _ => Sys2Proof.Machine.execBusStartOther s
  | .busRxAddr b => Sys2Proof.Machine.execBusRxAddr b s
  | .busRxData b => Sys2Proof.Machine.execBusRxData b s
  | .busRxIgnIdle _ => Sys2Proof.Machine.execBusRxIgnIdle s
  | .busRxIgnReading _ => Sys2Proof.Machine.execBusRxIgnReading s
  | .busTxData => Sys2Proof.Machine.execBusTxData s
  | .busTxIgnUnaddressed => Sys2Proof.Machine.execBusTxIgnUnaddressed s
  | .busTxIgnWriting => Sys2Proof.Machine.execBusTxIgnWriting s
  | .busStop => Sys2Proof.Machine.execBusStop s
  | .stepInitUp => Sys2Proof.Machine.execStepInitUp s
  | .stepInitDown => Sys2Proof.Machine.execStepInitDown s
  | .stepClearMaskPg => Sys2Proof.Machine.execStepClearMaskPg s
  | .stepClearMaskNoPg => Sys2Proof.Machine.execStepClearMaskNoPg s
  | .stepOffHold => Sys2Proof.Machine.execStepOffHold s
  | .stepOffPg => Sys2Proof.Machine.execStepOffPg s
  | .stepOffPgDrop => Sys2Proof.Machine.execStepOffPgDrop s
  | .stepOffPgHold => Sys2Proof.Machine.execStepOffPgHold s
  | .stepOnHold => Sys2Proof.Machine.execStepOnHold s
  | .stepPonDone => Sys2Proof.Machine.execStepPonDone s
  | .stepPonRetry => Sys2Proof.Machine.execStepPonRetry s
  | .stepPoff => Sys2Proof.Machine.execStepPoff s
  | .stepOnFail => Sys2Proof.Machine.execStepOnFail s
  | .stepUnkUp => Sys2Proof.Machine.execStepUnkUp s
  | .stepUnkDown => Sys2Proof.Machine.execStepUnkDown s
  | .step => Sys2Proof.Machine.execStep s
  | .requestPowerDown => Sys2Proof.Machine.execRequestPowerDown s
  | .handleStartEvent r => Sys2Proof.Machine.execHandleStartEvent r s
  | .irqStartButton => Sys2Proof.Machine.execIrqStartButton s
  | .irqStartOpto => Sys2Proof.Machine.execIrqStartOpto s
  | .irqStartTimeout => Sys2Proof.Machine.execIrqStartTimeout s
  | .mainIter => Sys2Proof.Machine.execMainIter s
  | .reset c => Sys2Proof.Machine.execReset c s
  | .wake => Sys2Proof.Machine.execWake s

end Sys2Proof.Machine
end

