-- ==== Sys2Proof/Machine/Select.lean ====
section
/-! DEFINITION. Which operation runs next, and in which state: the schedule (spec/00_scope.md rule R12,
spec/20_memory.md rule R54, spec/60_exceptions.md rules R142 to R147). The block fetches no instructions; an operation
is selected by the next port event and, for a bus event, by the state (rules R70, R78). -/

namespace Sys2Proof.Machine

/-- The operation word of a port event in a state (rules R69, R70, R78). -/
def eventWord (s : State) : PortEvent → OpWord
  | .store w => .storeOp w
  | .bus w => .busDec (busWord s w) (busEventPayload w)
  | .pwr w => .pwrEvt w
  | .internal w => .internal w

/-- The operation runs in context `main` (rule R61, column Context). `x` is the context of the input, which counts
for the operations rule R61 admits in both. RESET has no context (R61); an INTERNAL operation takes the input's. -/
def runsInMain (x : Context) : Instr → Bool
  | .get8 _ | .set8 _ _ | .setMask _ _ | .clearMask _ _ | .get32 _ | .set32 _ _
  | .requestPowerDown
  | .busRead8 _ | .busWrite8 _ _ | .busEnable | .busDisable => x == .main
  | .stepInitUp | .stepInitDown | .stepClearMaskPg | .stepClearMaskNoPg | .stepOffHold | .stepOffPg
  | .stepOffPgDrop | .stepOffPgHold | .stepOnHold | .stepPonDone | .stepPonRetry | .stepPoff
  | .stepOnFail | .stepUnkUp | .stepUnkDown
  | .step | .mainIter => true
  | .busOffIgn | .busStartW _ | .busStartR _ | .busStartOther _ | .busRxAddr _ | .busRxData _
  | .busRxIgnIdle _ | .busRxIgnReading _ | .busTxData | .busTxIgnUnaddressed | .busTxIgnWriting | .busStop
  | .handleStartEvent _ | .irqStartButton | .irqStartOpto | .irqStartTimeout | .reset _ | .wake => false

/-- What moves next: an operation runs in a state, or nothing does and the machine is in a state. -/
inductive Move where
  | run (i : Instr) (s : State)
  | still (s : State)

/-- The state in which an input is served: it is taken from the schedule and its levels are at the ports. -/
def serve (s : State) (inp : Input) (rest : List Input) : State :=
  { s with inputs := rest, railGood := inp.railGood, powerGood := inp.powerGood }

/-- Serve the next input. A reserved word does nothing (rule R72); while `sleeping = 1` no operation of context
`main` runs (rules R41, R147), so a schedule that has one there has it do nothing (assumption log entry 14). -/
def serveInput (s : State) (inp : Input) (rest : List Input) : Move :=
  let s' := serve s inp rest
  match decode s.cfg (eventWord s inp.event) with
  | .error _ => .still (reply s' .none)
  | .ok i => if s.sleeping && runsInMain inp.ctx i then .still (reply s' .none) else .run i s'

/-- No input gives the levels: they are draws (assumption log entry 11). -/
def freeSample (s : State) : State :=
  { drawn s with
    railGood := (Config.freeLevels s.draws).1
    powerGood := (Config.freeLevels s.draws).2 }

/-- The main loop is inside an iteration, and awake to go on with it. -/
def midIteration (s : State) : Bool := s.mainPhase != .ready && !s.sleeping

/-- The next move. An iteration in progress goes on unless the next input falls at the place it has reached; then
that input is served; with no input the main loop runs for ever (rule R152), and while suspended nothing moves. -/
def selectMove (s : State) : Move :=
  match s.inputs with
  | [] =>
    if s.sleeping then .still s
    else if s.mainPhase = .ready then .run .mainIter (freeSample s)
    else .run .mainIter s
  | inp :: rest =>
    if midIteration s && !due s.mainPhase inp then .run .mainIter s else serveInput s inp rest

/-! ## Placing one operation word before everything else -/

/-- Put an event before the schedule, the levels as they stand. It falls at the place the main loop
stands at, so the very next step serves it. -/
def placeEvent (s : State) (e : PortEvent) : State :=
  { s with inputs := ⟨e, .irq, s.mainPhase, s.railGood, s.powerGood⟩ :: s.inputs }

/-- The main loop awake and between two iterations, so that an operation of context `main` can run. -/
def mainReady (s : State) : State := { s with sleeping := false, mainPhase := .ready }

/-- Make the very next step run the operation of this word. A BUS_DEC word sets the state bits it names and places
its event; a STEP word sets `pstate` and the levels and places a `step` event (assumption log entries 9 and 16). -/
def placeWord (s : State) : OpWord → State
  | .storeOp w => placeEvent s (.store w)
  | .internal w => placeEvent s (.internal w)
  | .pwrEvt w => placeEvent (if loopEvent (.pwr w) then mainReady s else s) (.pwr w)
  | .busDec bd payload =>
    placeEvent { s with busEn := bd.getLsbD 6, bstate := bstateOfCode (bd.extractLsb' 4 2) }
      (.bus (bd.extractLsb' 2 2 ++ payload))
  | .stepDec sw =>
    placeEvent (mainReady { s with
      pstate := pstateOfCode (sw.extractLsb' 2 3)
      railGood := sw.getLsbD 1
      powerGood := sw.getLsbD 0 }) (.pwr 0x000)

end Sys2Proof.Machine
end

