-- ==== Sys2Proof/Machine/Step.lean ====
section
/-! DEFINITION. One step of the machine: the next move of the schedule (`Select.lean`) runs its operation. -/

namespace Sys2Proof.Machine

/-- One step: the operation that moves next, as `exec` runs it. -/
def step (s : State) : Host.Outcome State Fault Refusal :=
  match selectMove s with
  | .run i s' => exec i s'
  | .still s' => .next s'

/-- `s` with the operation word `w` of the opcode table placed where the next step takes its operation. A word that
is in no format of the table places nothing. -/
def State.withFetchWord (s : State) (nbits w : Nat) : State :=
  match tableOpWord s.cfg nbits w with
  | some x => placeWord s x
  | none => s

end Sys2Proof.Machine
end

