-- ==== Sys2Proof/Machine/Pseudo.lean ====
section
/-! DEFINITION. The host's pseudo-operations and commands as the bus events they expand to (spec/30_encoding.md rules
R62, R70, R75, R76). Consumers of the model only: no operation reads them. The info dump's register list and the
system-time commands beyond write-RTC and read-RTC are not in the source (91_not_in_source.md N14). -/

namespace Sys2Proof.Machine

/-- `S:SA+W` or `Sr:SA+W`: a start condition with the slave's write address byte. -/
def evStartW (c : Cfg) : BitVec 10 := 0#2 ++ (c.slaveAddr ++ 0#1)

/-- `S:SA+R` or `Sr:SA+R`. -/
def evStartR (c : Cfg) : BitVec 10 := 0#2 ++ (c.slaveAddr ++ 1#1)

/-- `>b`: a byte from master to slave. -/
def evRx (b : Byte) : BitVec 10 := 1#2 ++ b

/-- `<`: the master clocks a byte out. -/
def evTx : BitVec 10 := 0x200

/-- `P`: the stop condition. -/
def evStop : BitVec 10 := 0x300

/-- A bus event as an input of the schedule; a bus event reads neither level. -/
def atBus (w : BitVec 10) : Input := ⟨.bus w, .irq, .ready, false, false⟩

/-- `READ_REG(ra, n)` (rule R75). -/
def readRegEvents (c : Cfg) (ra : Addr) (n : Nat) : List (BitVec 10) :=
  [evStartW c, evRx ra, evStartR c] ++ List.replicate n evTx ++ [evStop]

/-- `WRITE_REG(ra, ds)` (rule R75). -/
def writeRegEvents (c : Cfg) (ra : Addr) (ds : List Byte) : List (BitVec 10) :=
  [evStartW c, evRx ra] ++ ds.map evRx ++ [evStop]

/-- `READ_FROM_ZERO(n)` (rule R75). -/
def readFromZeroEvents (c : Cfg) (n : Nat) : List (BitVec 10) :=
  [evStartR c] ++ List.replicate n evTx ++ [evStop]

/-- query-start-reason (rule R76). -/
def queryStartReason (c : Cfg) : List (BitVec 10) := readRegEvents c (c.addrOf .startReason) 1

/-- read-RTC (rule R76). -/
def readRtc (c : Cfg) : List (BitVec 10) := readRegEvents c (c.addrOf .seconds0) 4

/-- write-RTC, least significant byte first (rule R76). -/
def writeRtc (c : Cfg) (t : Word32) : List (BitVec 10) :=
  writeRegEvents c (c.addrOf .seconds0) [byteOf t 0, byteOf t 1, byteOf t 2, byteOf t 3]

/-- set-charge-rate (rule R76). -/
def setChargeRate (c : Cfg) (r : Byte) : List (BitVec 10) := writeRegEvents c (c.addrOf .i2cIcharge) [r]

/-- set-charge-time (rule R76). -/
def setChargeTime (c : Cfg) (t : Byte) : List (BitVec 10) := writeRegEvents c (c.addrOf .i2cTcharge) [t]

/-- set-power-down-delay (rule R76). -/
def setPowerDownDelay (c : Cfg) (d : Byte) : List (BitVec 10) := writeRegEvents c (c.addrOf .wdtStop) [d]

/-- set-power-on-delay (rule R76). -/
def setPowerOnDelay (c : Cfg) (h m s : Byte) : List (BitVec 10) :=
  writeRegEvents c (c.addrOf .restartHours) [h, m, s]

/-- enter-bootloader (rule R76: "read `CONTROL`, OR in `CONTROL_BOOTLOAD`, write it back"). `got` is the byte the read
delivers to the host; the two transactions are the host's, so another agent may write `CONTROL` between them (R158). -/
def enterBootloader (c : Cfg) (got : Byte) : List (BitVec 10) :=
  readRegEvents c (c.addrOf .control) 1 ++ writeRegEvents c (c.addrOf .control) [got ||| c.controlBootload]

/-- enter-bootloader by a host that no other agent crosses: what its read delivers is what `CONTROL` holds. -/
def enterBootloaderAlone (s : State) : List (BitVec 10) := enterBootloader s.cfg (readReg s .control)

end Sys2Proof.Machine
end

