-- ==== Sys2Proof/Safety.lean ====
section
/-! DEFINITION. What counts as a safe state and a safe environment, in the terms the claims use: the invariants of
spec/10_state.md rule R43 and spec/41_bus_slave_protocol.md rule R109, the agents' ports (rule R61) and what `FW_ENV`
may do (spec/20_memory.md rule R58). -/

namespace Sys2Proof.Machine

/-- The input is at a port of the spec: an INTERNAL operation is never selected from one (rule R61). -/
def Input.atPort (i : Input) : Bool :=
  match i.event with
  | .store _ | .bus _ | .pwr _ => true
  | .internal _ => false

/-- The state invariants of rules R43 and R109, and that a suspended loop is between iterations and not in `On`
(R132, R147). -/
structure ControlInv (s : State) : Prop where
  /-- (I-a) `pstate = On` implies `bus_en = 1`. -/
  onBus : s.pstate = .on → s.busEn = true
  /-- (I-b) `bus_en = 1` implies `pstate` in `{On, PoweringOff}`. -/
  busPower : s.busEn = true → s.pstate = .on ∨ s.pstate = .poweringOff
  /-- (I-c) `bus_en = 0` implies `bstate = Idle` and `ptr = 0`. -/
  busOff : s.busEn = false → s.bstate = .idle ∧ s.ptr = 0
  /-- (I-d) `pstate = On` implies `irq_start = 0`. -/
  onMasked : s.pstate = .on → s.irqStart = 0
  /-- (I-e) `pstate != 7`. -/
  known : s.pstate ≠ .unknown
  /-- (I-f) `bstate = Idle` implies `ptr = 0`. -/
  idlePtr : s.bstate = .idle → s.ptr = 0
  /-- A suspended loop is between iterations. -/
  sleepReady : s.sleeping = true → s.mainPhase = .ready
  /-- "In `On` the loop never sleeps" (rule R132). -/
  sleepNotOn : s.sleeping = true → s.pstate ≠ .on

/-- The invariant of a run: the control invariants, the canonical form of the register file, and inputs at the
spec's ports only. -/
structure Inv (s : State) : Prop where
  control : ControlInv s
  mem : s.reg.wf s.cfg = true
  ports : s.inputs.all Input.atPort = true

/-- `n` steps lead from `s` to `t`, none of them a fault or a refusal. -/
def Steps : Nat → State → State → Prop
  | 0, s, t => t = s
  | n + 1, s, t => ∃ u, step s = .next u ∧ Steps n u t

/-- The registers that `FW_ENV` writes (its column of rule R35; `OSCCAL`: assumption log entry 33). -/
def fwEnvWrites (r : RegName) : Bool :=
  [.status, .control, .seconds0, .seconds1, .seconds2, .seconds3].contains r

/-- The firmware-port operations of `FW_ENV` (rules R35, R58, decision D32): any operation on `STATUS`, mask operations
on `CONTROL`, `set32` at `ADDR_SECONDS_0`, reads of anything. In which context they come is `Input.isFwEnvMove`. Two points
are a DESIGN CHOICE. Assumption log entry 33: writes of `OSCCAL` are not its (the writers column of rule R24 says
"bus, fw", rule R35 "reads only"; R35 and R58 are followed). Assumption log entry 34: a `set32` at `STATUS` is its only
where the three bytes above name no register, since it "never writes" most of the others; and a `get32` at any address is a
read, though R58 names `get32` only at `STATUS` and `ADDR_SECONDS_0`. -/
def fwEnvAllows (c : Cfg) : Instr → Bool
  | .get8 _ | .get32 _ => true
  | .set8 a _ => a == c.addrOf .status
  | .setMask a _ | .clearMask a _ => a == c.addrOf .status || a == c.addrOf .control
  | .set32 a _ =>
    a == c.addrOf .seconds0
      || (a == c.addrOf .status
        && !c.defines (a.toNat + 1) && !c.defines (a.toNat + 2) && !c.defines (a.toNat + 3))
  | .busRead8 _ | .busWrite8 _ _ | .busEnable | .busDisable
  | .busOffIgn | .busStartW _ | .busStartR _ | .busStartOther _ | .busRxAddr _ | .busRxData _
  | .busRxIgnIdle _ | .busRxIgnReading _ | .busTxData | .busTxIgnUnaddressed | .busTxIgnWriting | .busStop
  | .stepInitUp | .stepInitDown | .stepClearMaskPg | .stepClearMaskNoPg | .stepOffHold | .stepOffPg
  | .stepOffPgDrop | .stepOffPgHold | .stepOnHold | .stepPonDone | .stepPonRetry | .stepPoff
  | .stepOnFail | .stepUnkUp | .stepUnkDown
  | .step | .requestPowerDown | .handleStartEvent _ | .irqStartButton | .irqStartOpto
  | .irqStartTimeout | .mainIter | .reset _ | .wake => false

/-- The input is a move of `FW_ENV` (rule R58): one of its operations at the firmware port, in context `main`. The other
context that rule R61 admits at this port is not its, so no move of it runs while `sleeping = 1`. -/
def Input.isFwEnvMove (c : Cfg) (i : Input) : Bool :=
  match i.event with
  | .store w =>
    i.ctx == .main &&
      match decode c (.storeOp w) with
      | .ok op => fwEnvAllows c op
      | .error _ => false
  | .bus _ | .pwr _ | .internal _ => false

/-- `FW_ENV` alone drives the firmware port in what is to come (rule R36 lists no other driver of it). -/
def fwEnvDrivesPort (s : State) : Bool :=
  s.inputs.all fun i =>
    match i.event with
    | .store _ => i.isFwEnvMove s.cfg
    | .bus _ | .pwr _ | .internal _ => true

end Sys2Proof.Machine
end

