-- ==== Sys2Proof/Certificates/Slice0/Obligations.lean ====
section
/-! DEFINITION. The statements for the provers. `{ s with f := … }` says that every other field of the state is as
it was. `readByte s n` is the model's read of the cell at address `n`, `readReg s r` that of a named register. That an
operation returns something is said by the field `answer` (log entry 13). A statement that rests on a decision of the
spec (92_eei_decisions.md D<n>) or of the model (notes/assumptions/<n>.md) says so in its docstring and has basis
'derived'. -/

open Sys2Proof Sys2Proof.Machine

/-! ## The firmware port -/

/-- Rules R80 and R69: the word's layout, with `data` ignored, is the spec's decision D29 (log entry 24). -/
def Obligations.Get8ReturnsRegisterByte : Prop :=
  ∀ (s : State) (addr : Addr) (data : Word32),
    decode s.cfg (.storeOp (0#3 ++ addr ++ data)) = .ok (.get8 addr) ∧
    exec (.get8 addr) s
      = .next { s with answer := ⟨none, none, some (zext32 (readByte s addr.toNat))⟩ } ∧
    (s.cfg.defines addr.toNat = false → readByte s addr.toNat = 0x00)

/-- Rule R81: the byte is stored, whatever the class of the register, and `GET8` then returns it; an unknown address is
ignored; every other cell and every other field stays. The word's layout (rule R69) is the spec's decision D29 (log
entry 24). -/
def Obligations.Set8StoresByteAndNothingElse : Prop :=
  ∀ (s : State) (addr : Addr) (v : Byte) (hi : BitVec 24),
    decode s.cfg (.storeOp (1#3 ++ addr ++ (hi ++ v))) = .ok (.set8 addr v) ∧
    ∃ t, exec (.set8 addr v) s = .next t ∧
      t = { s with reg := t.reg, answer := .none } ∧
      (s.cfg.defines addr.toNat = true → readByte t addr.toNat = v ∧
        exec (.get8 addr) t = .next { t with answer := ⟨none, none, some (zext32 v)⟩ }) ∧
      (s.cfg.defines addr.toNat = false → t.reg = s.reg) ∧
      ∀ n, n ≠ addr.toNat → readByte t n = readByte s n

/-- Rules R53, R82 and R83: `SET_MASK` ORs and `CLEAR_MASK` AND-NOTs one register in place. The atomicity is the spec's
decision D14 (log entry 17), the word's layout (R69) D29 (log entry 24). -/
def Obligations.MaskOperationsOrAndAndNotInPlace : Prop :=
  (∀ (s : State) (addr : Addr) (bits : Byte) (hi : BitVec 24),
    decode s.cfg (.storeOp (2#3 ++ addr ++ (hi ++ bits))) = .ok (.setMask addr bits) ∧
    ∃ t, exec (.setMask addr bits) s = .next t ∧
      t = { s with reg := t.reg, answer := .none } ∧
      (s.cfg.defines addr.toNat = true → readByte t addr.toNat = readByte s addr.toNat ||| bits) ∧
      (s.cfg.defines addr.toNat = false → t.reg = s.reg) ∧
      ∀ n, n ≠ addr.toNat → readByte t n = readByte s n) ∧
  ∀ (s : State) (addr : Addr) (bits : Byte) (hi : BitVec 24),
    decode s.cfg (.storeOp (3#3 ++ addr ++ (hi ++ bits))) = .ok (.clearMask addr bits) ∧
    ∃ t, exec (.clearMask addr bits) s = .next t ∧
      t = { s with reg := t.reg, answer := .none } ∧
      (s.cfg.defines addr.toNat = true → readByte t addr.toNat = readByte s addr.toNat &&& ~~~bits) ∧
      (s.cfg.defines addr.toNat = false → t.reg = s.reg) ∧
      ∀ n, n ≠ addr.toNat → readByte t n = readByte s n

/-- Rule R22: `rail_cmd` is 1 after the row that actuates rail-on and 0 after the row that actuates rail-off, a `STEP` or
an iteration writes it only by taking one of the two, no other operation does, and no operation reads it. The reset is the
exception the rule makes: of its draw nothing is said. -/
def Obligations.RailCmdIsTheLastActuation : Prop :=
  (∀ s : State, ∃ t u, exec .stepPonRetry s = .next t ∧ t.railCmd = true ∧
    exec .stepPoff s = .next u ∧ u.railCmd = false) ∧
  (∀ s : State, ∃ t, exec .step s = .next t ∧
    t.railCmd =
      if s.pstate = .poweringOn ∧ s.railGood = false then true
      else if s.pstate = .poweringOff then false
      else s.railCmd) ∧
  (∀ (i : Instr) (s t : State), (∀ c, i ≠ .reset c) → i ≠ .stepPonRetry → i ≠ .stepPoff →
    exec i s = .next t → t.railCmd ≠ s.railCmd →
    (i = .step ∨ i = .mainIter) ∧ ∃ u, exec .step s = .next u ∧ t.railCmd = u.railCmd) ∧
  ∀ (i : Instr) (s : State) (b : Bool), ∃ t u,
    exec i s = .next t ∧ exec i { s with railCmd := b } = .next u ∧ u = { t with railCmd := u.railCmd }

/-- Rule R84: the four bytes, the lowest address in bits 7:0; an address that is not in `Defined`, those past 0xFF among
them, contributes 0x00. A read at any address, with no wrap past 0xFF, is the spec's decision D20 (log entry 23), the
word's layout (R69) D29 (log entry 24). -/
def Obligations.Get32ReadsFourBytesLittleEndian : Prop :=
  ∀ (s : State) (addr : Addr) (data : Word32),
    decode s.cfg (.storeOp (4#3 ++ addr ++ data)) = .ok (.get32 addr) ∧
    ∃ v, exec (.get32 addr) s = .next { s with answer := ⟨none, none, some v⟩ } ∧
      (∀ i, i < 4 → v.extractLsb' (8 * i) 8 = readByte s (addr.toNat + i)) ∧
      (∀ n, s.cfg.defines n = false → readByte s n = 0x00) ∧
      ∀ n, 0xFF < n → s.cfg.defines n = false

/-- Rule R85: each byte lands at its own address if that is in `Defined`, the others are dropped; with all four there,
`GET32` returns the value; every other cell and field stays. A store at any address, byte by byte, is the spec's
decision D20 (log entry 23), the word's layout (R69) D29 (log entry 24). -/
def Obligations.Set32StoresFourBytesLittleEndian : Prop :=
  ∀ (s : State) (addr : Addr) (v : Word32),
    decode s.cfg (.storeOp (5#3 ++ addr ++ v)) = .ok (.set32 addr v) ∧
    ∃ t, exec (.set32 addr v) s = .next t ∧
      t = { s with reg := t.reg, answer := .none } ∧
      (∀ i, i < 4 → s.cfg.defines (addr.toNat + i) = true →
        readByte t (addr.toNat + i) = v.extractLsb' (8 * i) 8) ∧
      ((∀ i, i < 4 → s.cfg.defines (addr.toNat + i) = true) →
        exec (.get32 addr) t = .next { t with answer := ⟨none, none, some v⟩ }) ∧
      ∀ n, (∀ i, i < 4 → s.cfg.defines n = true → n ≠ addr.toNat + i) → readByte t n = readByte s n

/-- The register file has one representation: two canonical files that read alike are equal (log entry 7, the model's
choice). -/
def Obligations.CanonicalRegisterFileIsUnique : Prop :=
  ∀ (c : Cfg) (m k : Memory), m.wf c = true → k.wf c = true →
    (∀ n, m.read (unlistedByte c) n = k.read (unlistedByte c) n) → m = k

/-! ## The internal operations -/

/-- Rule R87: "Identical to `GET8`", for every register whatever its class; an unknown address reads 0x00; it is the
access inside `BUS_TX_DATA`; it changes nothing. -/
def Obligations.BusRead8IsGet8 : Prop :=
  ∀ (s : State) (addr : Addr),
    exec (.busRead8 addr) s = exec (.get8 addr) s ∧
    exec (.busRead8 addr) s
      = .next { s with answer := ⟨none, none, some (zext32 (readByte s addr.toNat))⟩ } ∧
    (s.cfg.defines addr.toNat = false → readByte s addr.toNat = 0x00) ∧
    ∃ t u, exec .busTxData s = .next t ∧ exec (.busRead8 s.ptr) s = .next u ∧
      t.answer.txByte.map zext32 = u.answer.data

/-- Rule R86: the byte is stored if the address is in `Defined` and `accept` admits it, else dropped. The acceptance
policy (R57) is the spec's decision D13. -/
def Obligations.BusWrite8StoresAcceptedByte : Prop :=
  ∀ (s : State) (addr : Addr) (v : Byte),
    ∃ t, exec (.busWrite8 addr v) s = .next t ∧
      t = { s with reg := t.reg, answer := .none } ∧
      (s.cfg.defines addr.toNat = true ∧ accept s.cfg addr v = true → readByte t addr.toNat = v) ∧
      (s.cfg.defines addr.toNat = false ∨ accept s.cfg addr v = false → t.reg = s.reg) ∧
      ∀ n, n ≠ addr.toNat → readByte t n = readByte s n

/-- Rule R57, test by test, for every named register under every policy and every `Cfg` that meets rule R9 (the
pairing of registers with capability bits is the spec's decision D13; that no bit gates `I2C_ADDRESS` is the model's
choice, log entry 35). -/
def Obligations.AcceptTestsClassRangeAndCapability : Prop :=
  ∀ (c : Cfg) (n : RegName) (v : Byte), c.wellFormed = true →
    accept c (c.addrOf n) v =
      ((n.cls != .ro || c.roBusWrite == .store) &&
       (c.rangeCheck == .off ||
         match n with
         | .i2cIcharge => decide (v.toNat ≤ 3)
         | .i2cTcharge => decide (3 ≤ v.toNat ∧ v.toNat ≤ 10)
         | .wdtStop => decide (1 ≤ v.toNat)
         | _ => true) &&
       (c.capGate == .off ||
         match n with
         | .i2cIcharge | .i2cTcharge =>
           c.capabilityVal &&& c.capCharger != 0 && decide (c.minChargeStep.toNat ≤ c.boardStepVal.toNat)
         | .wdtReset | .wdtPower | .wdtStop | .wdtStart => c.capabilityVal &&& c.capWdt != 0
         | .seconds0 | .seconds1 | .seconds2 | .seconds3 => c.capabilityVal &&& c.capRtc != 0
         | _ => true))

/-- Rules R100 and R101 (`Idle` and pointer 0 are the spec's decision D21). -/
def Obligations.BusStartsAndStopsIdleAtZero : Prop :=
  ∀ s : State,
    exec .busEnable s = .next { s with busEn := true, bstate := .idle, ptr := 0, answer := .none } ∧
    exec .busDisable s = .next { s with busEn := false, bstate := .idle, ptr := 0, answer := .none }

/-! ## The bus slave -/

/-- Rule R90: the complete transition function of the bus slave, over `(bus_en, bstate)` and the four event kinds. The
event word (R70) is the spec's decision D29, the match/mask pairs (R78) D30 (log entry 24); the layout of the address
byte (R62: the device in bits 7:1, the direction in bit 0) is D8 (log entry 3, PRESUMED). -/
def Obligations.BusEventSelectsOperation : Prop :=
  ∀ (s : State) (bev : BitVec 2) (p : Byte),
    decode s.cfg (eventWord s (.bus (bev ++ p))) = .ok (
      if s.busEn = false then .busOffIgn
      else if bev = 0 then
        if p.extractLsb' 1 7 = s.cfg.slaveAddr then
          if p.getLsbD 0 then .busStartR p else .busStartW p
        else .busStartOther p
      else if bev = 1 then
        match s.bstate with
        | .idle => .busRxIgnIdle p
        | .addressSelect => .busRxAddr p
        | .writing => .busRxData p
        | .reading => .busRxIgnReading p
      else if bev = 2 then
        match s.bstate with
        | .idle | .addressSelect => .busTxIgnUnaddressed
        | .writing => .busTxIgnWriting
        | .reading => .busTxData
      else .busStop)

/-- Rules R91 and R92, from any `bstate`. That the pointer keeps its value is the spec's decision D9 (log entry 20),
the acknowledge D22 (R106, log entry 22), that the interrupt wakes D36 (R147, log entry 26). -/
def Obligations.OwnStartSelectsDirectionAndKeepsPointer : Prop :=
  ∀ (s : State) (ab : Byte),
    exec (.busStartW ab) s
      = .next { s with bstate := .addressSelect, sleeping := false, answer := ⟨some true, none, none⟩ } ∧
    exec (.busStartR ab) s
      = .next { s with bstate := .reading, sleeping := false, answer := ⟨some true, none, none⟩ }

/-- Rules R93 and R99: a stop, and a start for another device, end the transaction with the pointer at 0; no register
changes. This is the spec's decisions D9 and D10 (log entry 20); the missing acknowledge is D22 (R106, log entry 22),
the wake D36 (R147, log entry 26). -/
def Obligations.StopAndForeignStartClearPointer : Prop :=
  ∀ (s : State) (ab : Byte),
    exec .busStop s = .next { s with bstate := .idle, ptr := 0, sleeping := false, answer := .none } ∧
    exec (.busStartOther ab) s
      = .next { s with bstate := .idle, ptr := 0, sleeping := false, answer := ⟨some false, none, none⟩ }

/-- Rule R94: the first byte in `AddressSelect` becomes the pointer, any byte; no register is touched. The event word
(R70) is the spec's decision D29 (log entry 24), the acknowledge D22 (R106, log entry 22), the wake D36 (R147, log
entry 26). -/
def Obligations.RxAddrLoadsPointer : Prop :=
  ∀ (s : State) (b : Byte),
    (s.busEn = true → s.bstate = .addressSelect →
      decode s.cfg (eventWord s (.bus (1#2 ++ b))) = .ok (.busRxAddr b)) ∧
    exec (.busRxAddr b) s
      = .next { s with
          ptr := b, bstate := .writing, sleeping := false, answer := ⟨some true, none, none⟩ }

/-- Rule R95: the byte is stored at the pointer as `BUS_WRITE8` stores it, the pointer advances whether or not it
was; every other cell and field stays. The acceptance policy (R57) is the spec's decision D13, the event word (R70) D29
(log entry 24), the acknowledge D22 (R106, log entry 22), the wake D36 (R147, log entry 26), the increment of a pointer
above `LAST` D12 (log entry 20). -/
def Obligations.RxDataStoresAtPointerAndAdvances : Prop :=
  ∀ (s : State) (b : Byte),
    (s.busEn = true → s.bstate = .writing →
      decode s.cfg (eventWord s (.bus (1#2 ++ b))) = .ok (.busRxData b)) ∧
    ∃ t, exec (.busRxData b) s = .next t ∧
      t = { s with
        reg := t.reg, ptr := inc s.cfg s.ptr, sleeping := false, answer := ⟨some true, none, none⟩ } ∧
      (∃ u, exec (.busWrite8 s.ptr b) s = .next u ∧ t.reg = u.reg) ∧
      (s.cfg.defines s.ptr.toNat = true ∧ accept s.cfg s.ptr b = true → readByte t s.ptr.toNat = b) ∧
      (s.cfg.defines s.ptr.toNat = false ∨ accept s.cfg s.ptr b = false → t.reg = s.reg) ∧
      ∀ n, n ≠ s.ptr.toNat → readByte t n = readByte s n

/-- Rule R97: the register at the pointer is sent, the pointer advances by one byte; no register changes. One
increment a byte and no prefetch is the spec's decision D22 (log entry 22), the increment above `LAST` D12 (log entry
20), the wake D36 (R147, log entry 26). -/
def Obligations.TxDataSendsRegisterAndAdvances : Prop :=
  ∀ s : State,
    exec .busTxData s
      = .next { s with
          ptr := inc s.cfg s.ptr, sleeping := false,
          answer := ⟨none, some (readByte s s.ptr.toNat), none⟩ }

/-- Rules R96, R98 and R103 (the spec's decisions D11, D21, D33; log entries 20 and 25): an out-of-order event does
nothing but end the suspension, since it is a delivered interrupt (R147); a byte the slave does not drive is some byte,
nothing said of it; while the protocol is stopped the event does not even wake. Who wakes is D36 (log entry 26), the
missing acknowledge D22 (R106, log entry 22). -/
def Obligations.OutOfOrderBusEventsAreAbsorbed : Prop :=
  ∀ (s : State) (b : Byte),
    exec (.busRxIgnIdle b) s = .next { s with sleeping := false, answer := ⟨some false, none, none⟩ } ∧
    exec (.busRxIgnReading b) s = .next { s with sleeping := false, answer := ⟨some false, none, none⟩ } ∧
    (∃ x, exec .busTxIgnUnaddressed s
      = .next { s with sleeping := false, answer := ⟨none, some x, none⟩, draws := s.draws + 1 }) ∧
    (∃ x, exec .busTxIgnWriting s
      = .next { s with sleeping := false, answer := ⟨none, some x, none⟩, draws := s.draws + 1 }) ∧
    ∃ x, exec .busOffIgn s
      = .next { s with answer := ⟨some false, some x, none⟩, draws := s.draws + 1 }

/-- Rule R102 (a pointer above `LAST` goes to 0 by the spec's decision D12): `inc` steps through the addresses, never
passes `LAST`, which is the greatest address of `Defined`, and `LAST + 1` bytes from 0 return to 0. -/
def Obligations.PointerIncrementWrapsPastLast : Prop :=
  ∀ (c : Cfg) (p : Addr),
    (∀ r ∈ c.regs, r.addr.toNat ≤ (lastAddr c).toNat) ∧
    (c.regs ≠ [] → ∃ r ∈ c.regs, r.addr = lastAddr c) ∧
    ((lastAddr c).toNat ≤ p.toNat → inc c p = 0) ∧
    (p.toNat < (lastAddr c).toNat → (inc c p).toNat = p.toNat + 1) ∧
    (inc c p).toNat ≤ (lastAddr c).toNat ∧
    (inc c)^[(lastAddr c).toNat + 1] 0 = 0

/-- Rules R105 and R107, first half: write one address byte, restart, read one byte: the selected register, from any
bus state, for every address. The layout of the address byte in the start events is D8 (log entry 3, PRESUMED), the event
words D29 (log entry 24), the pointer kept by a start D9 (log entry 20), its one increment D22 (log entry 22); the
schedule is the model's (log entries 10 and 12). -/
def Obligations.RestartReadsSelectedRegister : Prop :=
  ∀ (s : State) (ra : Addr) (rest : List Input),
    s.busEn = true → s.mainPhase = .ready →
    s.inputs = [evStartW s.cfg, evRx ra, evStartR s.cfg, evTx].map atBus ++ rest →
    ∃ a b c t : State,
      step s = .next a ∧ step a = .next b ∧ step b = .next c ∧ step c = .next t ∧
      t.answer.txByte = some (readByte s ra.toNat) ∧
      t.bstate = .reading ∧ t.ptr = inc s.cfg ra ∧ t.reg = s.reg ∧ t.inputs = rest

/-- Rules R105, R107 and R157, second half: a stop between the two makes the read return the byte at address 0 (by the
spec's decision D9, log entry 20). The layout of the address byte is D8 (log entry 3, PRESUMED), the event words D29 (log
entry 24), the one increment D22 (log entry 22); the schedule is the model's (log entries 10 and 12). -/
def Obligations.StopThenReadReadsAddressZero : Prop :=
  ∀ (s : State) (ra : Addr) (rest : List Input),
    s.busEn = true → s.mainPhase = .ready →
    s.inputs = [evStartW s.cfg, evRx ra, evStop, evStartR s.cfg, evTx].map atBus ++ rest →
    ∃ a b c d t : State,
      step s = .next a ∧ step a = .next b ∧ step b = .next c ∧ step c = .next d ∧ step d = .next t ∧
      t.answer.txByte = some (readByte s 0) ∧
      t.bstate = .reading ∧ t.ptr = inc s.cfg 0 ∧ t.reg = s.reg ∧ t.inputs = rest

/-- Rules R97 and R102, streamed: after `n` byte requests the pointer has advanced `n` times, the last byte sent is
that of the register the pointer then stood at, and no register changed. One increment a byte is the spec's decision D22
(log entry 22), the increment above `LAST` D12 (log entry 20), the event word D29 (log entry 24); the schedule is the
model's (log entries 10 and 12). -/
def Obligations.StreamedReadWalksTheRegisters : Prop :=
  ∀ (n : Nat) (s : State) (rest : List Input),
    s.busEn = true → s.mainPhase = .ready → s.bstate = .reading →
    s.inputs = List.replicate (n + 1) (atBus evTx) ++ rest →
    ∃ t : State, Steps (n + 1) s t ∧
      t.answer.txByte = some (readByte s ((inc s.cfg)^[n] s.ptr).toNat) ∧
      t.ptr = (inc s.cfg)^[n + 1] s.ptr ∧ t.bstate = .reading ∧ t.reg = s.reg ∧ t.inputs = rest

/-- Rule R76 (which marks its expansions derived) with R48: the host's write-RTC, least significant byte first, leaves
the clock such that `GET32` at `SECONDS_0` returns it, whatever the class and range policies; with the capability gate
on it takes `CAP_RTC` (the policies are the spec's decision D13). The layout of the address byte is D8 (log entry 3,
PRESUMED), the event words D29 (log entry 24), the pointer after the stop D9 (log entry 20); the schedule is the model's
(log entries 10 and 12). -/
def Obligations.WriteRtcOverBusSetsTheClock : Prop :=
  ∀ (s : State) (time : Word32) (rest : List Input),
    s.cfg.wellFormed = true → (s.cfg.capGate = .off ∨ s.cfg.capabilityVal &&& s.cfg.capRtc ≠ 0) →
    s.busEn = true → s.mainPhase = .ready →
    s.inputs = (writeRtc s.cfg time).map atBus ++ rest →
    ∃ t : State, Steps 7 s t ∧ t.inputs = rest ∧ t.bstate = .idle ∧ t.ptr = 0 ∧
      exec (.get32 (s.cfg.addrOf .seconds0)) t = .next { t with answer := ⟨none, none, some time⟩ } ∧
      ∀ n, (∀ i, i < 4 → n ≠ (s.cfg.addrOf .seconds0).toNat + i) → readByte t n = readByte s n

/-- Rules R143 and R148: a bus event completes, and never changes the sequencer, the rail, the start mask, the trace,
or, with `P_RO_BUS_WRITE = ignore` (the spec's decision D13), a read-only register. When it is served is the model's
(log entries 10 and 12). -/
def Obligations.BusMasterCannotTouchSequencer : Prop :=
  ∀ (s : State) (inp : Input) (rest : List Input) (w : BitVec 10),
    s.inputs = inp :: rest → inp.event = .bus w → (midIteration s = false ∨ due s.mainPhase inp = true) →
    ∃ t, step s = .next t ∧
      t.pstate = s.pstate ∧ t.busEn = s.busEn ∧ t.irqStart = s.irqStart ∧ t.railCmd = s.railCmd ∧
      t.trace = s.trace ∧ t.cfg = s.cfg ∧ t.mainPhase = s.mainPhase ∧
      (s.cfg.roBusWrite = .ignore → ∀ a : Addr, s.cfg.classOf a = some .ro →
        readByte t a.toNat = readByte s a.toNat)

/-! ## The power controller: the rows of `step` -/

/-- Rules R112, R113, R125 and R126: what selects the four rows, and that each moves `pstate` and does nothing else.
Code 7 is treated as `Init`. The codes and the match/mask pairs (R65, R68) are the spec's decisions D3 and D30 (log entry
24). -/
def Obligations.InitAndUnknownRowsFollowRail : Prop :=
  ∀ (s : State) (sw : BitVec 5),
    (sw &&& 0x1E = 0x02 → decode s.cfg (.stepDec sw) = .ok .stepInitUp) ∧
    (sw &&& 0x1E = 0x00 → decode s.cfg (.stepDec sw) = .ok .stepInitDown) ∧
    (sw &&& 0x1E = 0x1E → decode s.cfg (.stepDec sw) = .ok .stepUnkUp) ∧
    (sw &&& 0x1E = 0x1C → decode s.cfg (.stepDec sw) = .ok .stepUnkDown) ∧
    exec .stepInitUp s = .next { s with pstate := .poweringOn, answer := .none } ∧
    exec .stepInitDown s = .next { s with pstate := .poweringOff, answer := .none } ∧
    exec .stepUnkUp s = .next { s with pstate := .poweringOn, answer := .none } ∧
    exec .stepUnkDown s = .next { s with pstate := .poweringOff, answer := .none } ∧
    (s.pstate = .init ∨ s.pstate = .unknown →
      exec .step s
        = .next { s with pstate := if s.railGood then .poweringOn else .poweringOff, answer := .none })

/-- Rules R118 and R124: what selects the two rows, and that each moves `pstate` and does nothing else (the bus stays
enabled when the rail fails). The codes and the match/mask pairs (R65, R68) are the spec's decisions D3 and D30 (log
entry 24). -/
def Obligations.DropAndFailRowsMoveStateOnly : Prop :=
  ∀ (s : State) (sw : BitVec 5),
    (sw &&& 0x1D = 0x0C → decode s.cfg (.stepDec sw) = .ok .stepOffPgDrop) ∧
    (sw &&& 0x1E = 0x18 → decode s.cfg (.stepDec sw) = .ok .stepOnFail) ∧
    exec .stepOffPgDrop s = .next { s with pstate := .off, answer := .none } ∧
    exec .stepOnFail s = .next { s with pstate := .poweringOff, answer := .none } ∧
    (s.pstate = .offPowerGood → s.powerGood = false →
      exec .step s = .next { s with pstate := .off, answer := .none }) ∧
    (s.pstate = .on → s.railGood = false →
      exec .step s = .next { s with pstate := .poweringOff, answer := .none })

/-- Rules R116, R119 and R120 (which mark themselves derived): no trigger, no change. -/
def Obligations.HoldRowsChangeNothing : Prop :=
  ∀ s : State,
    exec .stepOffHold s = .next { s with answer := .none } ∧
    exec .stepOffPgHold s = .next { s with answer := .none } ∧
    exec .stepOnHold s = .next { s with answer := .none }

/-- Rules R114 and R115 (the next state by power-good is the spec's decision D18): the start mask is loaded from the
low four bits of `START_ENABLE`, the countdown is armed with the three bytes, all of `START_REASON` is cleared. -/
def Obligations.ClearMaskRowsArmAndClear : Prop :=
  ∀ s : State, ∃ t u,
    exec .stepClearMaskPg s = .next t ∧ exec .stepClearMaskNoPg s = .next u ∧
    t = { s with
      reg := t.reg
      irqStart := (readReg s .startEnable).extractLsb' 0 4
      trace := s.trace ++
        [.armCountdown (readReg s .restartHours) (readReg s .restartMinutes) (readReg s .restartSeconds)]
      pstate := .offPowerGood
      answer := .none } ∧
    u = { t with pstate := .off } ∧
    readByte t 0x05 = 0x00 ∧ ∀ n, n ≠ 0x05 → readByte t n = readByte s n

/-- Rule R117 (the order is the spec's decision D17): power-good seen in `Off` is a start request if `START_ENABLE` has
its bit, else the machine only moves to `OffPowerGood`. -/
def Obligations.OffRowWithPowerGoodRequestsStart : Prop :=
  ∀ s : State, ∃ t, exec .stepOffPg s = .next t ∧
    t = { s with reg := t.reg, pstate := t.pstate, answer := .none } ∧
    (readReg s .startEnable &&& 0x04 ≠ 0 →
      t.pstate = .poweringOn ∧
      (s.cfg.defines 0x05 = true → readByte t 0x05 = readByte s 0x05 ||| 0x04)) ∧
    (readReg s .startEnable &&& 0x04 = 0 → t.pstate = .offPowerGood ∧ t.reg = s.reg) ∧
    ∀ n, n ≠ 0x05 → readByte t n = readByte s n

/-- Rule R121 (that the started bus is `Idle` at pointer 0 is the spec's decision D21). -/
def Obligations.PoweredOnStartsBusAndMasksStarts : Prop :=
  ∀ s : State,
    exec .stepPonDone s
      = .next { s with
          busEn := true, bstate := .idle, ptr := 0, irqStart := 0, pstate := .on, answer := .none }

/-- Rule R122: what selects the row; one `RailOn` a step, and `pstate` stays. The codes and the match/mask pairs (R65,
R68) are the spec's decisions D3 and D30 (log entry 24). -/
def Obligations.PoweringOnRetriesRail : Prop :=
  ∀ (s : State) (sw : BitVec 5),
    (sw &&& 0x1E = 0x10 → decode s.cfg (.stepDec sw) = .ok .stepPonRetry) ∧
    exec .stepPonRetry s
      = .next { s with railCmd := true, trace := s.trace ++ [.railOn], answer := .none } ∧
    (s.pstate = .poweringOn → s.railGood = false →
      exec .step s = .next { s with railCmd := true, trace := s.trace ++ [.railOn], answer := .none })

/-- Rule R123 (that the stopped bus is `Idle` at pointer 0 is the spec's decision D21). -/
def Obligations.PoweringOffStopsBusAndRail : Prop :=
  ∀ s : State,
    exec .stepPoff s
      = .next { s with
          busEn := false, bstate := .idle, ptr := 0, railCmd := false,
          trace := s.trace ++ [.railOff], pstate := .clearMask, answer := .none }

/-- Rules R110, R111 and R68 (the decode word is the spec's decision D30): exactly one row of the table selects the
word of any state and levels, it is the row of the transition table, and STEP does what that row does. -/
def Obligations.StepPerformsTheSelectedRow : Prop :=
  ∀ s : State, ∃ (r : StepRow) (t : State),
    stepRowsOf (stepWord s) = [r] ∧
    exec .step s = .next t ∧ exec r.instr s = .next t ∧
    r.instr =
      match s.pstate with
      | .init => if s.railGood then .stepInitUp else .stepInitDown
      | .clearMask => if s.powerGood then .stepClearMaskPg else .stepClearMaskNoPg
      | .off => if s.powerGood then .stepOffPg else .stepOffHold
      | .offPowerGood => if s.powerGood then .stepOffPgHold else .stepOffPgDrop
      | .poweringOn => if s.railGood then .stepPonDone else .stepPonRetry
      | .poweringOff => .stepPoff
      | .on => if s.railGood then .stepOnHold else .stepOnFail
      | .unknown => if s.railGood then .stepUnkUp else .stepUnkDown

/-- Rule R133 (conflict C4): on the self-loop rows a second evaluation with unchanged levels changes nothing but the
repeated `RailOn` in `PoweringOn`; after any other row the second evaluation takes a different row. The rule counts four
hold rows where the table has three: that the three are meant is the model's deduction (log entry 32, DEDUCED). -/
def Obligations.StepIdempotentOnSelfLoops : Prop :=
  ∀ s : State, ∃ t u, exec .step s = .next t ∧ exec .step t = .next u ∧
    if (s.pstate = .off ∧ s.powerGood = false) ∨ (s.pstate = .offPowerGood ∧ s.powerGood = true) ∨
        (s.pstate = .on ∧ s.railGood = true) ∨ (s.pstate = .poweringOn ∧ s.railGood = false) then
      u = { t with trace := u.trace } ∧
      t.reg = s.reg ∧ t.pstate = s.pstate ∧
      u.trace = s.trace ++ (if s.pstate = .poweringOn then [.railOn, .railOn] else [])
    else stepRowsOf (stepWord t) ≠ stepRowsOf (stepWord s)

/-- Rule R136, what `step` never writes (which marks itself derived). -/
def Obligations.StepWritesOnlyStartReason : Prop :=
  ∀ s : State, ∃ (t : State) (evs : List OutEvent), exec .step s = .next t ∧
    t = { s with
      reg := t.reg, pstate := t.pstate, busEn := t.busEn, bstate := t.bstate, ptr := t.ptr
      irqStart := t.irqStart, railCmd := t.railCmd, trace := s.trace ++ evs, answer := .none } ∧
    (∀ n, n ≠ 0x05 → readByte t n = readByte s n) ∧
    (.railOn ∈ evs → s.pstate = .poweringOn) ∧
    (.railOff ∈ evs → s.pstate = .poweringOff) ∧
    (t.busEn ≠ s.busEn → s.pstate = .poweringOn ∧ s.railGood = true ∨ s.pstate = .poweringOff)

/-- Rule R136, what `step` never reads (which marks itself derived): two states that agree on `START_ENABLE`,
`START_REASON` and `RESTART_*` and outside the register file take the same step there. -/
def Obligations.StepReadsOnlyStartAndRestartRegisters : Prop :=
  ∀ s s' : State, s' = { s with reg := s'.reg } →
    (∀ r ∈ [RegName.startEnable, .startReason, .restartHours, .restartMinutes, .restartSeconds],
      readReg s' r = readReg s r) →
    ∃ t t', exec .step s = .next t ∧ exec .step s' = .next t' ∧
      t' = { t with reg := t'.reg } ∧ readReg t' .startReason = readReg t .startReason

/-! ## The power controller: events -/

/-- Rule R127 (any caller, any time: the spec's decision D26): "no-op in any other state". -/
def Obligations.RequestPowerDownOnlyFromOn : Prop :=
  ∀ s : State,
    (s.pstate = .on →
      exec .requestPowerDown s = .next { s with pstate := .poweringOff, answer := .none }) ∧
    (s.pstate ≠ .on → exec .requestPowerDown s = .next { s with answer := .none })

/-- Rule R128 (taken literally by the spec's decision D28): both tests guard both effects; the whole reason byte is
OR'ed in. -/
def Obligations.StartEventNeedsStateAndEnabledReason : Prop :=
  ∀ (s : State) (reason : Byte), ∃ t, exec (.handleStartEvent reason) s = .next t ∧
    t = { s with reg := t.reg, pstate := t.pstate, answer := .none } ∧
    ((s.pstate = .off ∨ s.pstate = .offPowerGood) ∧ reason &&& readReg s .startEnable ≠ 0 →
      t.pstate = .poweringOn ∧
      (s.cfg.defines 0x05 = true → readByte t 0x05 = readByte s 0x05 ||| reason)) ∧
    (¬ ((s.pstate = .off ∨ s.pstate = .offPowerGood) ∧ reason &&& readReg s .startEnable ≠ 0) →
      t.pstate = s.pstate ∧ t.reg = s.reg) ∧
    ∀ n, n ≠ 0x05 → readByte t n = readByte s n

/-- Rule R135, last part (which marks itself derived): once a start event has had its effect, another call of the handler
has none, whatever its reason. -/
def Obligations.SecondStartEventIsInert : Prop :=
  ∀ (s t : State) (reason again : Byte),
    exec (.handleStartEvent reason) s = .next t → t.pstate ≠ s.pstate →
    exec (.handleStartEvent again) t = .next t

/-- Rules R129 to R131 (the spec's decision D24, log entry 18): an enabled request wakes the loop (D36, log entry 26)
and calls the handler with its own reason; a request while its bit is clear is lost and does not wake. The bit order is
D5 (log entry 24). -/
def Obligations.StartRequestsNeedTheirMaskBit : Prop :=
  ∀ s : State,
    (s.irqStart.getLsbD 0 = true → ∃ t, exec .irqStartButton s = .next t ∧
      exec (.handleStartEvent 0x01) { s with sleeping := false } = .next t) ∧
    (s.irqStart.getLsbD 0 = false → exec .irqStartButton s = .next { s with answer := .none }) ∧
    (s.irqStart.getLsbD 1 = true → ∃ t, exec .irqStartOpto s = .next t ∧
      exec (.handleStartEvent 0x02) { s with sleeping := false } = .next t) ∧
    (s.irqStart.getLsbD 1 = false → exec .irqStartOpto s = .next { s with answer := .none }) ∧
    (s.irqStart.getLsbD 3 = true → ∃ t, exec .irqStartTimeout s = .next t ∧
      exec (.handleStartEvent 0x08) { s with sleeping := false } = .next t) ∧
    (s.irqStart.getLsbD 3 = false → exec .irqStartTimeout s = .next { s with answer := .none })

/-- Rule R140 (the spec's decision D36, log entry 26). -/
def Obligations.WakeEndsSuspensionOnly : Prop :=
  ∀ s : State, exec .wake s = .next { s with sleeping := false, answer := .none }

/-- Rule R150 (its values but `Init` and the cause are the spec's decision D19): every component at its reset value,
`rail_cmd` free. What the environment keeps is log entry 29. That a register of `Defined` which no rule names takes its
`RESET_IMAGE`, an `ro` one too, is the model's choice (log entry 31). -/
def Obligations.ResetGivesEveryResetValue : Prop :=
  ∀ (s : State) (cause : Byte), s.cfg.wellFormed = true →
    ∃ t, exec (.reset cause) s = .next t ∧
      t = { s with
        reg := t.reg, pstate := .init, busEn := false, bstate := .idle, ptr := 0, irqStart := 0
        sleeping := false, railCmd := t.railCmd, trace := [], mainPhase := .ready, answer := .none
        draws := s.draws + 1 } ∧
      readReg t .mcusr = cause ∧ readReg t .status = 0 ∧ readReg t .startReason = 0 ∧
      readReg t .capability = s.cfg.capabilityVal ∧ readReg t .boardType = s.cfg.boardTypeVal ∧
      readReg t .boardRev = s.cfg.boardRevVal ∧ readReg t .boardStep = s.cfg.boardStepVal ∧
      readReg t .extended = s.cfg.extSentinel ∧ readReg t .i2cAddress = s.cfg.slaveAddr.setWidth 8 ∧
      ∀ n d, s.cfg.regDef? n = some d → (∀ r : RegName, r.cls = .ro → n ≠ (s.cfg.addrOf r).toNat) →
        readByte t n = d.resetImage

/-! ## The main loop -/

/-- Rule R132 (its order is the spec's decision D23, log entry 21): with nothing falling between the parts, one
iteration is one `step`, one heartbeat, and the suspension unless the machine is then in `On`. -/
def Obligations.MainIterationStepsKicksSuspends : Prop :=
  ∀ s : State, s.sleeping = false → s.mainPhase = .ready → dueAt .kickDue s = false → dueAt .suspendDue s = false →
    ∃ r, exec .step s = .next r ∧
      exec .mainIter s = .next (
        if r.pstate = .on then { r with trace := r.trace ++ [.wdtKick] }
        else { r with trace := r.trace ++ [.wdtKick, .sleep], sleeping := true })

/-- Rules R132 and R142: the three parts are separate atomic operations; an input falls between the step and the
heartbeat or between the heartbeat and the suspend test, the suspend test reads `pstate` as it is then, and the step that
serves `MAIN_ITER` stops at either place with the input next. How the model holds its place is log entry 12, the order of
the parts the spec's decision D23 (log entry 21). -/
def Obligations.MainIterationYieldsBetweenParts : Prop :=
  ∀ s : State, s.sleeping = false →
    (s.mainPhase = .ready → dueAt .kickDue s = true →
      ∃ r, exec .step s = .next r ∧ exec .mainIter s = .next { r with mainPhase := .kickDue }) ∧
    (s.mainPhase = .ready → dueAt .kickDue s = false → dueAt .suspendDue s = true →
      ∃ r, exec .step s = .next r ∧
        exec .mainIter s = .next { r with trace := r.trace ++ [.wdtKick], mainPhase := .suspendDue }) ∧
    (s.mainPhase = .kickDue → dueAt .suspendDue s = true →
      exec .mainIter s
        = .next { s with trace := s.trace ++ [.wdtKick], mainPhase := .suspendDue, answer := .none }) ∧
    (s.mainPhase = .kickDue → dueAt .suspendDue s = false →
      exec .mainIter s
        = .next (if s.pstate = .on then
            { s with trace := s.trace ++ [.wdtKick], mainPhase := .ready, answer := .none }
          else
            { s with
              trace := s.trace ++ [.wdtKick, .sleep], sleeping := true, mainPhase := .ready, answer := .none })) ∧
    (s.mainPhase = .suspendDue →
      exec .mainIter s
        = .next (if s.pstate = .on then { s with mainPhase := .ready, answer := .none }
          else
            { s with
              trace := s.trace ++ [.sleep], sleeping := true, mainPhase := .ready, answer := .none })) ∧
    ∀ (m inp : Input) (rest : List Input) (p : MainPhase),
      s.mainPhase = .ready → p ≠ .ready → s.inputs = m :: inp :: rest →
      decode s.cfg (eventWord s m.event) = .ok .mainIter → due p inp = true →
      ∃ a, step s = .next a ∧ a.mainPhase = p ∧ a.sleeping = false ∧ a.inputs = inp :: rest

/-- Rules R41 and R147: while suspended the main loop does not move. With no input the suspended machine stands still,
and an input of context `main` does nothing (log entries 11 and 14, the model's choice). -/
def Obligations.SuspendedMainLoopDoesNotMove : Prop :=
  ∀ s : State, s.sleeping = true →
    exec .mainIter s = .next { s with answer := .none } ∧
    (s.inputs = [] → step s = .next s) ∧
    ∀ inp rest i, s.inputs = inp :: rest → decode s.cfg (eventWord s inp.event) = .ok i →
      runsInMain inp.ctx i = true →
      step s = .next { s with
        inputs := rest, railGood := inp.railGood, powerGood := inp.powerGood, answer := .none }

/-- Rule R152: the main loop goes round by itself while no input is there, with levels of which nothing is said; an
iteration in progress goes on (log entries 11 and 12, the model's choice). -/
def Obligations.MainLoopRunsByItself : Prop :=
  ∀ s : State, s.inputs = [] → s.sleeping = false →
    (s.mainPhase = .ready → ∃ rg pg,
      step s = exec .mainIter { s with railGood := rg, powerGood := pg, draws := s.draws + 1 }) ∧
    (s.mainPhase ≠ .ready → step s = exec .mainIter s)

/-! ## Steps -/

/-- A step runs the decoded operation: the next input is taken from the schedule, its levels are at the ports, and
`exec` runs what its word decodes to, if the input is due and the suspension does not hold it off (rules R54, R70, R142).
The schedule is the model's (log entries 10 and 12), and so is what becomes of an input of context `main` that comes
while suspended (log entry 14). -/
def Obligations.StepRunsDecodedOperation : Prop :=
  ∀ (s : State) (inp : Input) (rest : List Input) (i : Instr),
    s.inputs = inp :: rest → (midIteration s = false ∨ due s.mainPhase inp = true) →
    decode s.cfg (eventWord s inp.event) = .ok i →
    (s.sleeping = true → runsInMain inp.ctx i = false) →
    step s = exec i { s with inputs := rest, railGood := inp.railGood, powerGood := inp.powerGood }

/-- Rule R72 (the spec's decision D29, log entry 24): a reserved code does nothing. When it is served is the model's
(log entries 10 and 12). -/
def Obligations.ReservedCodesDoNothing : Prop :=
  ∀ (s : State) (inp : Input) (rest : List Input),
    s.inputs = inp :: rest → (midIteration s = false ∨ due s.mainPhase inp = true) →
    ((∃ (op : BitVec 3) (a : Addr) (d : Word32), (op = 6 ∨ op = 7) ∧ inp.event = .store (op ++ a ++ d)) ∨
      (∃ p : Byte, inp.event = .pwr (7#3 ++ p)) ∨
      (∃ p : Byte, p.extractLsb' 0 2 = 2 ∧ inp.event = .pwr (3#3 ++ p))) →
    step s = .next { s with
      inputs := rest, railGood := inp.railGood, powerGood := inp.powerGood, answer := .none }

/-- Rule R137: no operation raises an error; every operation and every step completes (what a step serves is the
model's, log entries 10 to 12 and 14). -/
def Obligations.EveryOperationAndStepCompletes : Prop :=
  (∀ (i : Instr) (s : State), ∃ t, exec i s = .next t) ∧ ∀ s : State, ∃ t, step s = .next t

/-- Rule R147, by the spec's decision D36 (log entry 26): what ends a suspension: a bus event while the bus is enabled,
a start request whose mask bit is set, a tick, a reset; nothing else. -/
def Obligations.OnlyDeliveredInterruptsWake : Prop :=
  ∀ s t : State, s.sleeping = true → s.inputs.all Input.atPort = true → step s = .next t →
    t.sleeping = false →
    ∃ inp rest, s.inputs = inp :: rest ∧
      ((∃ w, inp.event = .bus w ∧ s.busEn = true) ∨
        decode s.cfg (eventWord s inp.event) = .ok .wake ∨
        (∃ c, decode s.cfg (eventWord s inp.event) = .ok (.reset c)) ∨
        (decode s.cfg (eventWord s inp.event) = .ok .irqStartButton ∧ s.irqStart.getLsbD 0 = true) ∨
        (decode s.cfg (eventWord s inp.event) = .ok .irqStartOpto ∧ s.irqStart.getLsbD 1 = true) ∨
        (decode s.cfg (eventWord s inp.event) = .ok .irqStartTimeout ∧ s.irqStart.getLsbD 3 = true))

/-! ## Invariants -/

/-- `State.reset` meets the invariants of rules R43 and R109 (which mark themselves derived). The reset values that meet the
control clauses, all but `pstate = Init`, are the spec's decision D19 (R38). The rest is the model's choice: the canonical
register file log entry 7, the empty schedule log entry 10 (its ports log entry 15), the place of the main loop log entry
12. -/
def Obligations.ResetStateMeetsInvariant : Prop := Inv State.reset

/-- Rules R43 and R109 (which mark themselves derived), the canonical register file (log entry 7) and the suspension (R132,
its order the spec's decision D23, log entry 21; the place of the main loop log entry 12): every step keeps them, whatever
input comes at the spec's ports (the schedule is log entry 10, the ports' words log entry 15). -/
def Obligations.EveryStepKeepsInvariant : Prop :=
  ∀ s t : State, Inv s → step s = .next t → Inv t

/-- Rule R34, under named premises: `MCUSR` is the cause byte of the reset, and no other operation changes it, neither the
bus master while writes to read-only registers are ignored (the policy of rule R57, the spec's decision D13), nor the
firmware outside the block while it keeps to its column of rule R35 and to rule R58 (the spec's decision D32; log entries
27, 33 and 34); so no step does, from any schedule in which `FW_ENV` alone drives the firmware port, in context `main`,
but one that serves a reset (the schedule is log entry 10). -/
def Obligations.McusrHoldsTheResetCause : Prop :=
  (∀ (s : State) (cause : Byte), s.cfg.wellFormed = true →
    ∃ t, exec (.reset cause) s = .next t ∧ readReg t .mcusr = cause) ∧
  (∀ (i : Instr) (s t : State), s.cfg.wellFormed = true → s.cfg.roBusWrite = .ignore →
    (i.format = .storeOp → fwEnvAllows s.cfg i = true) → (∀ c, i ≠ .reset c) →
    exec i s = .next t → readReg t .mcusr = readReg s .mcusr) ∧
  ∀ s t : State, s.cfg.wellFormed = true → s.cfg.roBusWrite = .ignore → fwEnvDrivesPort s = true →
    (∀ inp rest c, s.inputs = inp :: rest → decode s.cfg (eventWord s inp.event) ≠ .ok (.reset c)) →
    step s = .next t → readReg t .mcusr = readReg s .mcusr

/-- Every operation, an INTERNAL one too, keeps the canonical form of the register file (log entry 7), and none
writes the configuration. -/
def Obligations.EveryOperationKeepsRegisterFileCanonical : Prop :=
  ∀ (i : Instr) (s t : State), s.reg.wf s.cfg = true → exec i s = .next t →
    t.cfg = s.cfg ∧ t.reg.wf t.cfg = true

/-- Rule R135: outside the `ClearMask` rows and a reset, `START_REASON` only gains bits, while the firmware outside the
block keeps to rules R35 and R58 (the spec's decision D32; log entries 27, 33 and 34) and bus writes to read-only registers
are ignored (the policy of rule R57, the spec's decision D13). -/
def Obligations.StartReasonIsOnlyEverOred : Prop :=
  ∀ (i : Instr) (s t : State), s.cfg.wellFormed = true → s.cfg.roBusWrite = .ignore →
    (i.format = .storeOp → fwEnvAllows s.cfg i = true) →
    i ≠ .stepClearMaskPg → i ≠ .stepClearMaskNoPg → (∀ c, i ≠ .reset c) →
    (i = .step ∨ i = .mainIter → s.pstate ≠ .clearMask) →
    exec i s = .next t →
    readReg s .startReason &&& ~~~ readReg t .startReason = 0

/-- Rule R134 (which marks itself derived): the only edges of PowerState that an operation at a port can take, a reset
apart. -/
def Obligations.PowerStateMovesAlongTheTable : Prop :=
  ∀ (i : Instr) (s t : State), i.format ≠ .stepDec → (∀ c, i ≠ .reset c) → exec i s = .next t →
    t.pstate = s.pstate ∨
    (s.pstate, t.pstate) ∈
      [(PState.init, PState.poweringOn), (.init, .poweringOff), (.clearMask, .offPowerGood), (.clearMask, .off),
       (.off, .offPowerGood), (.off, .poweringOn), (.offPowerGood, .off), (.offPowerGood, .poweringOn),
       (.poweringOn, .on), (.on, .poweringOff), (.poweringOff, .clearMask),
       (.unknown, .poweringOn), (.unknown, .poweringOff)]

/-! ## Levels and encodings -/

/-- Rules R25 and R37: the charger-enable bit of `CONTROL`, set and cleared by the firmware's mask operations, is the
level output `charger_enable` (for every `Cfg` that meets rule R9; the atomicity is the spec's decision D14). -/
def Obligations.ChargerLevelFollowsControlBit : Prop :=
  ∀ s : State, s.cfg.wellFormed = true →
    (∃ t, exec (.setMask (s.cfg.addrOf .control) s.cfg.controlCe) s = .next t ∧
      chargerEnable t.cfg (readReg t .control) = true) ∧
    ∃ t, exec (.clearMask (s.cfg.addrOf .control) s.cfg.controlCe) s = .next t ∧
      chargerEnable t.cfg (readReg t .control) = false

/-- Rule R29: the bytes that a `ClearMask` row passes out on `ArmCountdown`, by itself or taken by `STEP`, make the delay
3600 hours + 60 minutes + seconds of the three `RESTART_*` registers, any bytes that `SET8` stored there; the delay is at
most 933,555 seconds, which three bytes of 255 reach. The formula and its range are the spec's decision D31 (conflict C1).
-/
def Obligations.RestartBytesGiveTheDelay : Prop :=
  (∀ (i : Instr) (s : State),
    (i = .stepClearMaskPg ∨ i = .stepClearMaskNoPg ∨ (i = .step ∧ s.pstate = .clearMask)) →
    ∃ t h m sec, exec i s = .next t ∧ t.trace = s.trace ++ [.armCountdown h m sec] ∧
      restartTotal h m sec =
        3600 * (readReg s .restartHours).toNat + 60 * (readReg s .restartMinutes).toNat
          + (readReg s .restartSeconds).toNat) ∧
  (∀ (s : State) (h m sec : Byte), s.cfg.wellFormed = true → s.pstate = .clearMask →
    ∃ a b c t,
      exec (.set8 (s.cfg.addrOf .restartHours) h) s = .next a ∧
      exec (.set8 (s.cfg.addrOf .restartMinutes) m) a = .next b ∧
      exec (.set8 (s.cfg.addrOf .restartSeconds) sec) b = .next c ∧
      exec .step c = .next t ∧ t.trace = s.trace ++ [.armCountdown h m sec] ∧
      restartTotal h m sec = 3600 * h.toNat + 60 * m.toNat + sec.toNat) ∧
  (∀ h m sec : Byte, restartTotal h m sec ≤ 933555) ∧ restartTotal 0xFF 0xFF 0xFF = 933555

/-- Rules R61, R68, R69, R70 and R78 (the codes are the spec's decisions D29 and D30, the words of the INTERNAL
operations the model's, log entry 15): decoding the word of a well-formed operation gives it back, with every operand
at every value. -/
def Obligations.DecodeOfEncodeIsIdentity : Prop :=
  ∀ (c : Cfg) (i : Instr), i.wellFormed c = true → decode c (encode i) = .ok i

/-- Words of 95_test_vectors.md: V4, V8, V16 of STORE_OP, V40, V48, V51, the words of P1, and the reserved V21 and V53
(the codes are the spec's decision D29). -/
def Obligations.WordsOfTheVectorsDecode : Prop :=
  decode defaultCfg (.storeOp 0x106000000A5) = .ok (.set8 0x06 0xA5) ∧
  decode defaultCfg (.storeOp 0x2030000000C) = .ok (.setMask 0x03 0x0C) ∧
  decode defaultCfg (.storeOp 0x40900000000) = .ok (.get32 0x09) ∧
  decode defaultCfg (.pwrEvt 0x201) = .ok (.handleStartEvent 0x01) ∧
  decode defaultCfg (.pwrEvt 0x300) = .ok .irqStartButton ∧
  decode defaultCfg (.pwrEvt 0x303) = .ok .irqStartTimeout ∧
  decode defaultCfg (.pwrEvt 0x501) = .ok (.reset 0x01) ∧
  decode defaultCfg (.pwrEvt 0x400) = .ok .mainIter ∧
  decode defaultCfg (.storeOp 0x60000000000) = .error .reservedStoreOp ∧
  decode defaultCfg (.pwrEvt 0x302) = .error .reservedStartSource
end

