-- ==== Sys2Proof/Laws/Decode.lean ====
section
/-! SUPPORT. Laws of the decoder: the rows of the two match/mask tables partition their words (spec/30_encoding.md
rules R68, R78), the fields of a port word, and the row a state selects. -/

namespace Sys2Proof

/-- "The fifteen `STEP_*` operations partition all 32 values of `sw`" (rule R68). -/
theorem stepRowsOf_singleton : ∀ sw : BitVec 5, (stepRowsOf sw).length = 1 := by decide

/-- "The rows below cover all 128 values of `bd` exactly once" (rule R78). -/
theorem busRowsOf_singleton : ∀ bd : BitVec 7, (busRowsOf bd).length = 1 := by decide

/-- The row that `decodeStep` answers is the one row that selects the word. -/
theorem stepRowsOf_eq (sw : BitVec 5) : stepRowsOf sw = [decodeStep sw] := by
  have h := stepRowsOf_singleton sw
  unfold decodeStep
  match hr : stepRowsOf sw, h with
  | [r], _ => rfl

/-! ## Fields of a word -/

theorem storeWord_op (op : BitVec 3) (a : Addr) (d : Word32) :
    BitVec.extractLsb' 40 3 (op ++ a ++ d) = op := by
  refine BitVec.eq_of_getLsbD_eq fun i hi => ?_
  have h1 : ¬ 40 + i < 32 := by omega
  have h2 : ¬ 40 + i - 32 < 8 := by omega
  have h3 : 40 + i - 32 - 8 = i := by omega
  simp only [BitVec.getLsbD_extractLsb', BitVec.getLsbD_append]
  simp [h1, h2, h3, hi]

theorem storeWord_addr (op : BitVec 3) (a : Addr) (d : Word32) :
    BitVec.extractLsb' 32 8 (op ++ a ++ d) = a := by
  refine BitVec.eq_of_getLsbD_eq fun i hi => ?_
  have h1 : ¬ 32 + i < 32 := by omega
  have h2 : 32 + i - 32 < 8 := by omega
  have h3 : 32 + i - 32 = i := by omega
  simp only [BitVec.getLsbD_extractLsb', BitVec.getLsbD_append]
  simp [h1, h3, hi]

theorem storeWord_data (op : BitVec 3) (a : Addr) (d : Word32) :
    BitVec.extractLsb' 0 32 (op ++ a ++ d) = d := by
  refine BitVec.eq_of_getLsbD_eq fun i hi => ?_
  simp only [BitVec.getLsbD_extractLsb', BitVec.getLsbD_append]
  simp [hi]

theorem storeWord_byte (op : BitVec 3) (a : Addr) (hi : BitVec 24) (v : Byte) :
    BitVec.extractLsb' 0 8 (op ++ a ++ (hi ++ v)) = v := by
  refine BitVec.eq_of_getLsbD_eq fun i h => ?_
  have h1 : i < 32 := by omega
  simp only [BitVec.getLsbD_extractLsb', BitVec.getLsbD_append]
  simp [h, h1]

theorem pwrWord_pev (pev : BitVec 3) (p : Byte) : BitVec.extractLsb' 8 3 (pev ++ p) = pev := by
  refine BitVec.eq_of_getLsbD_eq fun i hi => ?_
  have h1 : ¬ 8 + i < 8 := by omega
  have h2 : 8 + i - 8 = i := by omega
  simp only [BitVec.getLsbD_extractLsb', BitVec.getLsbD_append]
  simp [h1, h2, hi]

theorem pwrWord_payload (pev : BitVec 3) (p : Byte) : BitVec.extractLsb' 0 8 (pev ++ p) = p := by
  refine BitVec.eq_of_getLsbD_eq fun i hi => ?_
  simp only [BitVec.getLsbD_extractLsb', BitVec.getLsbD_append]
  simp [hi]

theorem busEvent_kind (bev : BitVec 2) (p : Byte) : Machine.busEventKind (bev ++ p) = bev := by
  refine BitVec.eq_of_getLsbD_eq fun i hi => ?_
  have h1 : ¬ 8 + i < 8 := by omega
  have h2 : 8 + i - 8 = i := by omega
  simp only [Machine.busEventKind, BitVec.getLsbD_extractLsb', BitVec.getLsbD_append]
  simp [h1, h2, hi]

theorem busEvent_payload (bev : BitVec 2) (p : Byte) : Machine.busEventPayload (bev ++ p) = p := by
  refine BitVec.eq_of_getLsbD_eq fun i hi => ?_
  simp only [Machine.busEventPayload, BitVec.getLsbD_extractLsb', BitVec.getLsbD_append]
  simp [hi]

theorem internalWord_iop (v a : Byte) (iop : BitVec 2) : BitVec.extractLsb' 0 2 (v ++ a ++ iop) = iop := by
  refine BitVec.eq_of_getLsbD_eq fun i hi => ?_
  simp only [BitVec.getLsbD_extractLsb', BitVec.getLsbD_append]
  simp [hi]

theorem internalWord_addr (v a : Byte) (iop : BitVec 2) : BitVec.extractLsb' 2 8 (v ++ a ++ iop) = a := by
  refine BitVec.eq_of_getLsbD_eq fun i hi => ?_
  have h1 : ¬ 2 + i < 2 := by omega
  have h2 : 2 + i - 2 = i := by omega
  simp only [BitVec.getLsbD_extractLsb', BitVec.getLsbD_append]
  simp [h1, h2, hi]

theorem internalWord_v (v a : Byte) (iop : BitVec 2) : BitVec.extractLsb' 10 8 (v ++ a ++ iop) = v := by
  refine BitVec.eq_of_getLsbD_eq fun i hi => ?_
  have h1 : ¬ 10 + i < 2 := by omega
  have h2 : ¬ 10 + i - 2 < 8 := by omega
  have h3 : 10 + i - 2 - 8 = i := by omega
  simp only [BitVec.getLsbD_extractLsb', BitVec.getLsbD_append]
  simp [h1, h2, h3, hi]

/-- The address byte of a start event is well-formed for the row that `own` and `dir` select (rules R62, R78). -/
theorem addressByte_eq (a7 : BitVec 7) (ab : Byte) :
    ab = a7 ++ BitVec.ofBool (ab.getLsbD 0) ↔ ab.extractLsb' 1 7 = a7 := by
  constructor
  · intro h
    rw [h]
    refine BitVec.eq_of_getLsbD_eq fun i hi => ?_
    have h1 : ¬ 1 + i < 1 := by omega
    have h2 : 1 + i - 1 = i := by omega
    simp only [BitVec.getLsbD_extractLsb', BitVec.getLsbD_append]
    simp [h2, hi]
  · intro h
    refine BitVec.eq_of_getLsbD_eq fun i hi => ?_
    rw [← h]
    by_cases h0 : i = 0
    · subst h0
      simp only [BitVec.getLsbD_append]
      simp
    · have h1 : ¬ i < 1 := by omega
      have h2 : 1 + (i - 1) = i := by omega
      have h3 : i - 1 < 7 := by omega
      simp only [BitVec.getLsbD_extractLsb', BitVec.getLsbD_append]
      simp [h1, h2, h3]

/-! ## What a state selects -/

/-- The transition table of rule R110, made total (rule R68). -/
theorem selectedRow_eq (s : Machine.State) :
    Machine.selectedRow s =
      match s.pstate with
      | .init => if s.railGood then .initUp else .initDown
      | .clearMask => if s.powerGood then .clearMaskPg else .clearMaskNoPg
      | .off => if s.powerGood then .offPg else .offHold
      | .offPowerGood => if s.powerGood then .offPgHold else .offPgDrop
      | .poweringOn => if s.railGood then .ponDone else .ponRetry
      | .poweringOff => .poff
      | .on => if s.railGood then .onHold else .onFail
      | .unknown => if s.railGood then .unkUp else .unkDown := by
  unfold Machine.selectedRow Machine.stepWord
  cases s.pstate <;> cases s.railGood <;> cases s.powerGood <;> rfl

/-- The transition function of rule R90, over the fields of the BUS_DEC word (rule R78). -/
theorem decodeBus_eq (en own dir : Bool) (b : Machine.BState) (bev : BitVec 2) (p : Byte) :
    decodeBus (BitVec.ofBool en ++ Machine.bstateCode b ++ bev ++ BitVec.ofBool own ++ BitVec.ofBool dir) p =
      if en = false then .busOffIgn
      else if bev = 0 then if own then if dir then .busStartR p else .busStartW p else .busStartOther p
      else if bev = 1 then
        match b with
        | .idle => .busRxIgnIdle p
        | .addressSelect => .busRxAddr p
        | .writing => .busRxData p
        | .reading => .busRxIgnReading p
      else if bev = 2 then
        match b with
        | .idle | .addressSelect => .busTxIgnUnaddressed
        | .writing => .busTxIgnWriting
        | .reading => .busTxData
      else .busStop := by
  have hb : bev = 0 ∨ bev = 1 ∨ bev = 2 ∨ bev = 3 := by revert bev; decide
  rcases hb with rfl | rfl | rfl | rfl <;> cases en <;> cases b <;> cases own <;> cases dir <;> rfl

/-! ## What each port can select -/

/-- A STORE_OP word selects one of the six store operations (rule R69). -/
theorem decodeStore_cases {w : BitVec 43} {i : Instr} (h : decodeStore w = .ok i) :
    (∃ a, i = .get8 a) ∨ (∃ a v, i = .set8 a v) ∨ (∃ a v, i = .setMask a v) ∨ (∃ a v, i = .clearMask a v) ∨
      (∃ a, i = .get32 a) ∨ (∃ a v, i = .set32 a v) := by
  unfold decodeStore at h
  dsimp only at h
  split at h <;> cases h <;> simp

/-- A PWR_EVT word selects one of the nine operations of the controller port (rule R70). -/
theorem decodePwr_cases {w : BitVec 11} {i : Instr} (h : decodePwr w = .ok i) :
    i = .step ∨ i = .requestPowerDown ∨ (∃ r, i = .handleStartEvent r) ∨ i = .irqStartButton ∨
      i = .irqStartOpto ∨ i = .irqStartTimeout ∨ i = .mainIter ∨ (∃ c, i = .reset c) ∨ i = .wake := by
  unfold decodePwr at h
  dsimp only at h
  split at h
  case h_4 => split at h <;> cases h <;> simp
  all_goals cases h
  all_goals simp

/-- What a bus event selects in a state (rules R78, R90), with the `bstate` of the three operations that use the
pointer. -/
theorem decodeBusEvent_cases {s : Machine.State} {w : BitVec 10} {i : Instr}
    (h : decode s.cfg (Machine.eventWord s (.bus w)) = .ok i) :
    (s.busEn = false ∧ i = .busOffIgn) ∨
    (s.busEn = true ∧
      ((∃ p, i = .busStartR p) ∨ (∃ p, i = .busStartW p) ∨ (∃ p, i = .busStartOther p) ∨
        (∃ p, i = .busRxIgnIdle p) ∨ (s.bstate = .addressSelect ∧ ∃ p, i = .busRxAddr p) ∨
        (s.bstate = .writing ∧ ∃ p, i = .busRxData p) ∨ (∃ p, i = .busRxIgnReading p) ∨
        i = .busTxIgnUnaddressed ∨ i = .busTxIgnWriting ∨ (s.bstate = .reading ∧ i = .busTxData) ∨
        i = .busStop)) := by
  have h : decodeBus (Machine.busWord s w) (Machine.busEventPayload w) = i := by
    simp only [Machine.eventWord, decode] at h
    split at h
    · simpa using h
    · cases h
  rw [Machine.busWord, decodeBus_eq] at h
  rw [← h]
  cases s.busEn
  · exact .inl ⟨rfl, rfl⟩
  · refine .inr ⟨rfl, ?_⟩
    simp only [Bool.true_eq_false, if_false]
    split
    · split <;> [split; skip] <;> simp
    · split
      · cases s.bstate <;> simp
      · split
        · cases s.bstate <;> simp
        · simp

end Sys2Proof
end

