-- ==== Sys2Proof/Laws/State.lean ====
section
/-! SUPPORT. The small lemmas of the state: one per field per update, so that no later proof unfolds a record update
(spec/10_state.md rule R15 lists the fields). -/

namespace Sys2Proof.Machine

variable (s : State)

/-! ### `reply` -/

@[simp] theorem reply_reg (a : Answer) : (reply s a).reg = s.reg := rfl
@[simp] theorem reply_pstate (a : Answer) : (reply s a).pstate = s.pstate := rfl
@[simp] theorem reply_busEn (a : Answer) : (reply s a).busEn = s.busEn := rfl
@[simp] theorem reply_bstate (a : Answer) : (reply s a).bstate = s.bstate := rfl
@[simp] theorem reply_ptr (a : Answer) : (reply s a).ptr = s.ptr := rfl
@[simp] theorem reply_irqStart (a : Answer) : (reply s a).irqStart = s.irqStart := rfl
@[simp] theorem reply_railCmd (a : Answer) : (reply s a).railCmd = s.railCmd := rfl
@[simp] theorem reply_sleeping (a : Answer) : (reply s a).sleeping = s.sleeping := rfl
@[simp] theorem reply_trace (a : Answer) : (reply s a).trace = s.trace := rfl
@[simp] theorem reply_cfg (a : Answer) : (reply s a).cfg = s.cfg := rfl
@[simp] theorem reply_railGood (a : Answer) : (reply s a).railGood = s.railGood := rfl
@[simp] theorem reply_powerGood (a : Answer) : (reply s a).powerGood = s.powerGood := rfl
@[simp] theorem reply_inputs (a : Answer) : (reply s a).inputs = s.inputs := rfl
@[simp] theorem reply_answer (a : Answer) : (reply s a).answer = a := rfl
@[simp] theorem reply_mainPhase (a : Answer) : (reply s a).mainPhase = s.mainPhase := rfl
@[simp] theorem reply_draws (a : Answer) : (reply s a).draws = s.draws := rfl

/-! ### `emit` -/

@[simp] theorem emit_reg (e : OutEvent) : (emit s e).reg = s.reg := rfl
@[simp] theorem emit_pstate (e : OutEvent) : (emit s e).pstate = s.pstate := rfl
@[simp] theorem emit_busEn (e : OutEvent) : (emit s e).busEn = s.busEn := rfl
@[simp] theorem emit_bstate (e : OutEvent) : (emit s e).bstate = s.bstate := rfl
@[simp] theorem emit_ptr (e : OutEvent) : (emit s e).ptr = s.ptr := rfl
@[simp] theorem emit_irqStart (e : OutEvent) : (emit s e).irqStart = s.irqStart := rfl
@[simp] theorem emit_railCmd (e : OutEvent) : (emit s e).railCmd = s.railCmd := rfl
@[simp] theorem emit_sleeping (e : OutEvent) : (emit s e).sleeping = s.sleeping := rfl
@[simp] theorem emit_trace (e : OutEvent) : (emit s e).trace = s.trace ++ [e] := rfl
@[simp] theorem emit_cfg (e : OutEvent) : (emit s e).cfg = s.cfg := rfl
@[simp] theorem emit_railGood (e : OutEvent) : (emit s e).railGood = s.railGood := rfl
@[simp] theorem emit_powerGood (e : OutEvent) : (emit s e).powerGood = s.powerGood := rfl
@[simp] theorem emit_inputs (e : OutEvent) : (emit s e).inputs = s.inputs := rfl
@[simp] theorem emit_answer (e : OutEvent) : (emit s e).answer = s.answer := rfl
@[simp] theorem emit_mainPhase (e : OutEvent) : (emit s e).mainPhase = s.mainPhase := rfl
@[simp] theorem emit_draws (e : OutEvent) : (emit s e).draws = s.draws := rfl

/-! ### `deliver` -/

@[simp] theorem deliver_reg : (deliver s).reg = s.reg := rfl
@[simp] theorem deliver_pstate : (deliver s).pstate = s.pstate := rfl
@[simp] theorem deliver_busEn : (deliver s).busEn = s.busEn := rfl
@[simp] theorem deliver_bstate : (deliver s).bstate = s.bstate := rfl
@[simp] theorem deliver_ptr : (deliver s).ptr = s.ptr := rfl
@[simp] theorem deliver_irqStart : (deliver s).irqStart = s.irqStart := rfl
@[simp] theorem deliver_railCmd : (deliver s).railCmd = s.railCmd := rfl
@[simp] theorem deliver_sleeping : (deliver s).sleeping = false := rfl
@[simp] theorem deliver_trace : (deliver s).trace = s.trace := rfl
@[simp] theorem deliver_cfg : (deliver s).cfg = s.cfg := rfl
@[simp] theorem deliver_railGood : (deliver s).railGood = s.railGood := rfl
@[simp] theorem deliver_powerGood : (deliver s).powerGood = s.powerGood := rfl
@[simp] theorem deliver_inputs : (deliver s).inputs = s.inputs := rfl
@[simp] theorem deliver_answer : (deliver s).answer = s.answer := rfl
@[simp] theorem deliver_mainPhase : (deliver s).mainPhase = s.mainPhase := rfl
@[simp] theorem deliver_draws : (deliver s).draws = s.draws := rfl

/-! ### `drawn` -/

@[simp] theorem drawn_reg : (drawn s).reg = s.reg := rfl
@[simp] theorem drawn_pstate : (drawn s).pstate = s.pstate := rfl
@[simp] theorem drawn_busEn : (drawn s).busEn = s.busEn := rfl
@[simp] theorem drawn_bstate : (drawn s).bstate = s.bstate := rfl
@[simp] theorem drawn_ptr : (drawn s).ptr = s.ptr := rfl
@[simp] theorem drawn_irqStart : (drawn s).irqStart = s.irqStart := rfl
@[simp] theorem drawn_railCmd : (drawn s).railCmd = s.railCmd := rfl
@[simp] theorem drawn_sleeping : (drawn s).sleeping = s.sleeping := rfl
@[simp] theorem drawn_trace : (drawn s).trace = s.trace := rfl
@[simp] theorem drawn_cfg : (drawn s).cfg = s.cfg := rfl
@[simp] theorem drawn_railGood : (drawn s).railGood = s.railGood := rfl
@[simp] theorem drawn_powerGood : (drawn s).powerGood = s.powerGood := rfl
@[simp] theorem drawn_inputs : (drawn s).inputs = s.inputs := rfl
@[simp] theorem drawn_answer : (drawn s).answer = s.answer := rfl
@[simp] theorem drawn_mainPhase : (drawn s).mainPhase = s.mainPhase := rfl
@[simp] theorem drawn_draws : (drawn s).draws = s.draws + 1 := rfl

/-! ### `startBus` -/

@[simp] theorem startBus_reg : (startBus s).reg = s.reg := rfl
@[simp] theorem startBus_pstate : (startBus s).pstate = s.pstate := rfl
@[simp] theorem startBus_busEn : (startBus s).busEn = true := rfl
@[simp] theorem startBus_bstate : (startBus s).bstate = .idle := rfl
@[simp] theorem startBus_ptr : (startBus s).ptr = 0 := rfl
@[simp] theorem startBus_irqStart : (startBus s).irqStart = s.irqStart := rfl
@[simp] theorem startBus_railCmd : (startBus s).railCmd = s.railCmd := rfl
@[simp] theorem startBus_sleeping : (startBus s).sleeping = s.sleeping := rfl
@[simp] theorem startBus_trace : (startBus s).trace = s.trace := rfl
@[simp] theorem startBus_cfg : (startBus s).cfg = s.cfg := rfl
@[simp] theorem startBus_railGood : (startBus s).railGood = s.railGood := rfl
@[simp] theorem startBus_powerGood : (startBus s).powerGood = s.powerGood := rfl
@[simp] theorem startBus_inputs : (startBus s).inputs = s.inputs := rfl
@[simp] theorem startBus_answer : (startBus s).answer = s.answer := rfl
@[simp] theorem startBus_mainPhase : (startBus s).mainPhase = s.mainPhase := rfl
@[simp] theorem startBus_draws : (startBus s).draws = s.draws := rfl

/-! ### `stopBus` -/

@[simp] theorem stopBus_reg : (stopBus s).reg = s.reg := rfl
@[simp] theorem stopBus_pstate : (stopBus s).pstate = s.pstate := rfl
@[simp] theorem stopBus_busEn : (stopBus s).busEn = false := rfl
@[simp] theorem stopBus_bstate : (stopBus s).bstate = .idle := rfl
@[simp] theorem stopBus_ptr : (stopBus s).ptr = 0 := rfl
@[simp] theorem stopBus_irqStart : (stopBus s).irqStart = s.irqStart := rfl
@[simp] theorem stopBus_railCmd : (stopBus s).railCmd = s.railCmd := rfl
@[simp] theorem stopBus_sleeping : (stopBus s).sleeping = s.sleeping := rfl
@[simp] theorem stopBus_trace : (stopBus s).trace = s.trace := rfl
@[simp] theorem stopBus_cfg : (stopBus s).cfg = s.cfg := rfl
@[simp] theorem stopBus_railGood : (stopBus s).railGood = s.railGood := rfl
@[simp] theorem stopBus_powerGood : (stopBus s).powerGood = s.powerGood := rfl
@[simp] theorem stopBus_inputs : (stopBus s).inputs = s.inputs := rfl
@[simp] theorem stopBus_answer : (stopBus s).answer = s.answer := rfl
@[simp] theorem stopBus_mainPhase : (stopBus s).mainPhase = s.mainPhase := rfl
@[simp] theorem stopBus_draws : (stopBus s).draws = s.draws := rfl

/-! ### `endTransaction` -/

@[simp] theorem endTransaction_reg : (endTransaction s).reg = s.reg := rfl
@[simp] theorem endTransaction_pstate : (endTransaction s).pstate = s.pstate := rfl
@[simp] theorem endTransaction_busEn : (endTransaction s).busEn = s.busEn := rfl
@[simp] theorem endTransaction_bstate : (endTransaction s).bstate = .idle := rfl
@[simp] theorem endTransaction_ptr : (endTransaction s).ptr = 0 := rfl
@[simp] theorem endTransaction_irqStart : (endTransaction s).irqStart = s.irqStart := rfl
@[simp] theorem endTransaction_railCmd : (endTransaction s).railCmd = s.railCmd := rfl
@[simp] theorem endTransaction_sleeping : (endTransaction s).sleeping = s.sleeping := rfl
@[simp] theorem endTransaction_trace : (endTransaction s).trace = s.trace := rfl
@[simp] theorem endTransaction_cfg : (endTransaction s).cfg = s.cfg := rfl
@[simp] theorem endTransaction_railGood : (endTransaction s).railGood = s.railGood := rfl
@[simp] theorem endTransaction_powerGood : (endTransaction s).powerGood = s.powerGood := rfl
@[simp] theorem endTransaction_inputs : (endTransaction s).inputs = s.inputs := rfl
@[simp] theorem endTransaction_answer : (endTransaction s).answer = s.answer := rfl
@[simp] theorem endTransaction_mainPhase : (endTransaction s).mainPhase = s.mainPhase := rfl
@[simp] theorem endTransaction_draws : (endTransaction s).draws = s.draws := rfl

/-! ### `advancePtr` -/

@[simp] theorem advancePtr_reg : (advancePtr s).reg = s.reg := rfl
@[simp] theorem advancePtr_pstate : (advancePtr s).pstate = s.pstate := rfl
@[simp] theorem advancePtr_busEn : (advancePtr s).busEn = s.busEn := rfl
@[simp] theorem advancePtr_bstate : (advancePtr s).bstate = s.bstate := rfl
@[simp] theorem advancePtr_ptr : (advancePtr s).ptr = inc s.cfg s.ptr := rfl
@[simp] theorem advancePtr_irqStart : (advancePtr s).irqStart = s.irqStart := rfl
@[simp] theorem advancePtr_railCmd : (advancePtr s).railCmd = s.railCmd := rfl
@[simp] theorem advancePtr_sleeping : (advancePtr s).sleeping = s.sleeping := rfl
@[simp] theorem advancePtr_trace : (advancePtr s).trace = s.trace := rfl
@[simp] theorem advancePtr_cfg : (advancePtr s).cfg = s.cfg := rfl
@[simp] theorem advancePtr_railGood : (advancePtr s).railGood = s.railGood := rfl
@[simp] theorem advancePtr_powerGood : (advancePtr s).powerGood = s.powerGood := rfl
@[simp] theorem advancePtr_inputs : (advancePtr s).inputs = s.inputs := rfl
@[simp] theorem advancePtr_answer : (advancePtr s).answer = s.answer := rfl
@[simp] theorem advancePtr_mainPhase : (advancePtr s).mainPhase = s.mainPhase := rfl
@[simp] theorem advancePtr_draws : (advancePtr s).draws = s.draws := rfl

/-! ### `actuateRailOn` -/

@[simp] theorem actuateRailOn_reg : (actuateRailOn s).reg = s.reg := rfl
@[simp] theorem actuateRailOn_pstate : (actuateRailOn s).pstate = s.pstate := rfl
@[simp] theorem actuateRailOn_busEn : (actuateRailOn s).busEn = s.busEn := rfl
@[simp] theorem actuateRailOn_bstate : (actuateRailOn s).bstate = s.bstate := rfl
@[simp] theorem actuateRailOn_ptr : (actuateRailOn s).ptr = s.ptr := rfl
@[simp] theorem actuateRailOn_irqStart : (actuateRailOn s).irqStart = s.irqStart := rfl
@[simp] theorem actuateRailOn_railCmd : (actuateRailOn s).railCmd = true := rfl
@[simp] theorem actuateRailOn_sleeping : (actuateRailOn s).sleeping = s.sleeping := rfl
@[simp] theorem actuateRailOn_trace : (actuateRailOn s).trace = s.trace ++ [.railOn] := rfl
@[simp] theorem actuateRailOn_cfg : (actuateRailOn s).cfg = s.cfg := rfl
@[simp] theorem actuateRailOn_railGood : (actuateRailOn s).railGood = s.railGood := rfl
@[simp] theorem actuateRailOn_powerGood : (actuateRailOn s).powerGood = s.powerGood := rfl
@[simp] theorem actuateRailOn_inputs : (actuateRailOn s).inputs = s.inputs := rfl
@[simp] theorem actuateRailOn_answer : (actuateRailOn s).answer = s.answer := rfl
@[simp] theorem actuateRailOn_mainPhase : (actuateRailOn s).mainPhase = s.mainPhase := rfl
@[simp] theorem actuateRailOn_draws : (actuateRailOn s).draws = s.draws := rfl

/-! ### `actuateRailOff` -/

@[simp] theorem actuateRailOff_reg : (actuateRailOff s).reg = s.reg := rfl
@[simp] theorem actuateRailOff_pstate : (actuateRailOff s).pstate = s.pstate := rfl
@[simp] theorem actuateRailOff_busEn : (actuateRailOff s).busEn = s.busEn := rfl
@[simp] theorem actuateRailOff_bstate : (actuateRailOff s).bstate = s.bstate := rfl
@[simp] theorem actuateRailOff_ptr : (actuateRailOff s).ptr = s.ptr := rfl
@[simp] theorem actuateRailOff_irqStart : (actuateRailOff s).irqStart = s.irqStart := rfl
@[simp] theorem actuateRailOff_railCmd : (actuateRailOff s).railCmd = false := rfl
@[simp] theorem actuateRailOff_sleeping : (actuateRailOff s).sleeping = s.sleeping := rfl
@[simp] theorem actuateRailOff_trace : (actuateRailOff s).trace = s.trace ++ [.railOff] := rfl
@[simp] theorem actuateRailOff_cfg : (actuateRailOff s).cfg = s.cfg := rfl
@[simp] theorem actuateRailOff_railGood : (actuateRailOff s).railGood = s.railGood := rfl
@[simp] theorem actuateRailOff_powerGood : (actuateRailOff s).powerGood = s.powerGood := rfl
@[simp] theorem actuateRailOff_inputs : (actuateRailOff s).inputs = s.inputs := rfl
@[simp] theorem actuateRailOff_answer : (actuateRailOff s).answer = s.answer := rfl
@[simp] theorem actuateRailOff_mainPhase : (actuateRailOff s).mainPhase = s.mainPhase := rfl
@[simp] theorem actuateRailOff_draws : (actuateRailOff s).draws = s.draws := rfl

/-! ### `writeByte` changes the register file alone -/

@[simp] theorem writeByte_pstate (n : Nat) (v : Byte) : (writeByte s n v).pstate = s.pstate := by
  unfold writeByte; split <;> rfl
@[simp] theorem writeByte_busEn (n : Nat) (v : Byte) : (writeByte s n v).busEn = s.busEn := by
  unfold writeByte; split <;> rfl
@[simp] theorem writeByte_bstate (n : Nat) (v : Byte) : (writeByte s n v).bstate = s.bstate := by
  unfold writeByte; split <;> rfl
@[simp] theorem writeByte_ptr (n : Nat) (v : Byte) : (writeByte s n v).ptr = s.ptr := by
  unfold writeByte; split <;> rfl
@[simp] theorem writeByte_irqStart (n : Nat) (v : Byte) : (writeByte s n v).irqStart = s.irqStart := by
  unfold writeByte; split <;> rfl
@[simp] theorem writeByte_railCmd (n : Nat) (v : Byte) : (writeByte s n v).railCmd = s.railCmd := by
  unfold writeByte; split <;> rfl
@[simp] theorem writeByte_sleeping (n : Nat) (v : Byte) : (writeByte s n v).sleeping = s.sleeping := by
  unfold writeByte; split <;> rfl
@[simp] theorem writeByte_trace (n : Nat) (v : Byte) : (writeByte s n v).trace = s.trace := by
  unfold writeByte; split <;> rfl
@[simp] theorem writeByte_cfg (n : Nat) (v : Byte) : (writeByte s n v).cfg = s.cfg := by
  unfold writeByte; split <;> rfl
@[simp] theorem writeByte_railGood (n : Nat) (v : Byte) : (writeByte s n v).railGood = s.railGood := by
  unfold writeByte; split <;> rfl
@[simp] theorem writeByte_powerGood (n : Nat) (v : Byte) : (writeByte s n v).powerGood = s.powerGood := by
  unfold writeByte; split <;> rfl
@[simp] theorem writeByte_inputs (n : Nat) (v : Byte) : (writeByte s n v).inputs = s.inputs := by
  unfold writeByte; split <;> rfl
@[simp] theorem writeByte_answer (n : Nat) (v : Byte) : (writeByte s n v).answer = s.answer := by
  unfold writeByte; split <;> rfl
@[simp] theorem writeByte_mainPhase (n : Nat) (v : Byte) : (writeByte s n v).mainPhase = s.mainPhase := by
  unfold writeByte; split <;> rfl
@[simp] theorem writeByte_draws (n : Nat) (v : Byte) : (writeByte s n v).draws = s.draws := by
  unfold writeByte; split <;> rfl

/-! ### `writeReg`, `setBits`, `clearBits` are `writeByte` -/

@[simp] theorem writeReg_pstate (r : RegName) (v : Byte) : (writeReg s r v).pstate = s.pstate :=
  writeByte_pstate s _ _
@[simp] theorem writeReg_busEn (r : RegName) (v : Byte) : (writeReg s r v).busEn = s.busEn :=
  writeByte_busEn s _ _
@[simp] theorem writeReg_bstate (r : RegName) (v : Byte) : (writeReg s r v).bstate = s.bstate :=
  writeByte_bstate s _ _
@[simp] theorem writeReg_ptr (r : RegName) (v : Byte) : (writeReg s r v).ptr = s.ptr :=
  writeByte_ptr s _ _
@[simp] theorem writeReg_irqStart (r : RegName) (v : Byte) : (writeReg s r v).irqStart = s.irqStart :=
  writeByte_irqStart s _ _
@[simp] theorem writeReg_railCmd (r : RegName) (v : Byte) : (writeReg s r v).railCmd = s.railCmd :=
  writeByte_railCmd s _ _
@[simp] theorem writeReg_sleeping (r : RegName) (v : Byte) : (writeReg s r v).sleeping = s.sleeping :=
  writeByte_sleeping s _ _
@[simp] theorem writeReg_trace (r : RegName) (v : Byte) : (writeReg s r v).trace = s.trace :=
  writeByte_trace s _ _
@[simp] theorem writeReg_cfg (r : RegName) (v : Byte) : (writeReg s r v).cfg = s.cfg :=
  writeByte_cfg s _ _
@[simp] theorem writeReg_railGood (r : RegName) (v : Byte) : (writeReg s r v).railGood = s.railGood :=
  writeByte_railGood s _ _
@[simp] theorem writeReg_powerGood (r : RegName) (v : Byte) : (writeReg s r v).powerGood = s.powerGood :=
  writeByte_powerGood s _ _
@[simp] theorem writeReg_inputs (r : RegName) (v : Byte) : (writeReg s r v).inputs = s.inputs :=
  writeByte_inputs s _ _
@[simp] theorem writeReg_answer (r : RegName) (v : Byte) : (writeReg s r v).answer = s.answer :=
  writeByte_answer s _ _
@[simp] theorem writeReg_mainPhase (r : RegName) (v : Byte) : (writeReg s r v).mainPhase = s.mainPhase :=
  writeByte_mainPhase s _ _
@[simp] theorem writeReg_draws (r : RegName) (v : Byte) : (writeReg s r v).draws = s.draws :=
  writeByte_draws s _ _
@[simp] theorem setBits_pstate (a : Addr) (v : Byte) : (setBits s a v).pstate = s.pstate :=
  writeByte_pstate s _ _
@[simp] theorem setBits_busEn (a : Addr) (v : Byte) : (setBits s a v).busEn = s.busEn :=
  writeByte_busEn s _ _
@[simp] theorem setBits_bstate (a : Addr) (v : Byte) : (setBits s a v).bstate = s.bstate :=
  writeByte_bstate s _ _
@[simp] theorem setBits_ptr (a : Addr) (v : Byte) : (setBits s a v).ptr = s.ptr :=
  writeByte_ptr s _ _
@[simp] theorem setBits_irqStart (a : Addr) (v : Byte) : (setBits s a v).irqStart = s.irqStart :=
  writeByte_irqStart s _ _
@[simp] theorem setBits_railCmd (a : Addr) (v : Byte) : (setBits s a v).railCmd = s.railCmd :=
  writeByte_railCmd s _ _
@[simp] theorem setBits_sleeping (a : Addr) (v : Byte) : (setBits s a v).sleeping = s.sleeping :=
  writeByte_sleeping s _ _
@[simp] theorem setBits_trace (a : Addr) (v : Byte) : (setBits s a v).trace = s.trace :=
  writeByte_trace s _ _
@[simp] theorem setBits_cfg (a : Addr) (v : Byte) : (setBits s a v).cfg = s.cfg :=
  writeByte_cfg s _ _
@[simp] theorem setBits_railGood (a : Addr) (v : Byte) : (setBits s a v).railGood = s.railGood :=
  writeByte_railGood s _ _
@[simp] theorem setBits_powerGood (a : Addr) (v : Byte) : (setBits s a v).powerGood = s.powerGood :=
  writeByte_powerGood s _ _
@[simp] theorem setBits_inputs (a : Addr) (v : Byte) : (setBits s a v).inputs = s.inputs :=
  writeByte_inputs s _ _
@[simp] theorem setBits_answer (a : Addr) (v : Byte) : (setBits s a v).answer = s.answer :=
  writeByte_answer s _ _
@[simp] theorem setBits_mainPhase (a : Addr) (v : Byte) : (setBits s a v).mainPhase = s.mainPhase :=
  writeByte_mainPhase s _ _
@[simp] theorem setBits_draws (a : Addr) (v : Byte) : (setBits s a v).draws = s.draws :=
  writeByte_draws s _ _
@[simp] theorem clearBits_pstate (a : Addr) (v : Byte) : (clearBits s a v).pstate = s.pstate :=
  writeByte_pstate s _ _
@[simp] theorem clearBits_busEn (a : Addr) (v : Byte) : (clearBits s a v).busEn = s.busEn :=
  writeByte_busEn s _ _
@[simp] theorem clearBits_bstate (a : Addr) (v : Byte) : (clearBits s a v).bstate = s.bstate :=
  writeByte_bstate s _ _
@[simp] theorem clearBits_ptr (a : Addr) (v : Byte) : (clearBits s a v).ptr = s.ptr :=
  writeByte_ptr s _ _
@[simp] theorem clearBits_irqStart (a : Addr) (v : Byte) : (clearBits s a v).irqStart = s.irqStart :=
  writeByte_irqStart s _ _
@[simp] theorem clearBits_railCmd (a : Addr) (v : Byte) : (clearBits s a v).railCmd = s.railCmd :=
  writeByte_railCmd s _ _
@[simp] theorem clearBits_sleeping (a : Addr) (v : Byte) : (clearBits s a v).sleeping = s.sleeping :=
  writeByte_sleeping s _ _
@[simp] theorem clearBits_trace (a : Addr) (v : Byte) : (clearBits s a v).trace = s.trace :=
  writeByte_trace s _ _
@[simp] theorem clearBits_cfg (a : Addr) (v : Byte) : (clearBits s a v).cfg = s.cfg :=
  writeByte_cfg s _ _
@[simp] theorem clearBits_railGood (a : Addr) (v : Byte) : (clearBits s a v).railGood = s.railGood :=
  writeByte_railGood s _ _
@[simp] theorem clearBits_powerGood (a : Addr) (v : Byte) : (clearBits s a v).powerGood = s.powerGood :=
  writeByte_powerGood s _ _
@[simp] theorem clearBits_inputs (a : Addr) (v : Byte) : (clearBits s a v).inputs = s.inputs :=
  writeByte_inputs s _ _
@[simp] theorem clearBits_answer (a : Addr) (v : Byte) : (clearBits s a v).answer = s.answer :=
  writeByte_answer s _ _
@[simp] theorem clearBits_mainPhase (a : Addr) (v : Byte) : (clearBits s a v).mainPhase = s.mainPhase :=
  writeByte_mainPhase s _ _
@[simp] theorem clearBits_draws (a : Addr) (v : Byte) : (clearBits s a v).draws = s.draws :=
  writeByte_draws s _ _

/-! ### `write32` changes the register file alone -/

@[simp] theorem write32_pstate (a : Addr) (v : Word32) : (write32 s a v).pstate = s.pstate := by
  simp [write32]
@[simp] theorem write32_busEn (a : Addr) (v : Word32) : (write32 s a v).busEn = s.busEn := by
  simp [write32]
@[simp] theorem write32_bstate (a : Addr) (v : Word32) : (write32 s a v).bstate = s.bstate := by
  simp [write32]
@[simp] theorem write32_ptr (a : Addr) (v : Word32) : (write32 s a v).ptr = s.ptr := by
  simp [write32]
@[simp] theorem write32_irqStart (a : Addr) (v : Word32) : (write32 s a v).irqStart = s.irqStart := by
  simp [write32]
@[simp] theorem write32_railCmd (a : Addr) (v : Word32) : (write32 s a v).railCmd = s.railCmd := by
  simp [write32]
@[simp] theorem write32_sleeping (a : Addr) (v : Word32) : (write32 s a v).sleeping = s.sleeping := by
  simp [write32]
@[simp] theorem write32_trace (a : Addr) (v : Word32) : (write32 s a v).trace = s.trace := by
  simp [write32]
@[simp] theorem write32_cfg (a : Addr) (v : Word32) : (write32 s a v).cfg = s.cfg := by
  simp [write32]
@[simp] theorem write32_railGood (a : Addr) (v : Word32) : (write32 s a v).railGood = s.railGood := by
  simp [write32]
@[simp] theorem write32_powerGood (a : Addr) (v : Word32) : (write32 s a v).powerGood = s.powerGood := by
  simp [write32]
@[simp] theorem write32_inputs (a : Addr) (v : Word32) : (write32 s a v).inputs = s.inputs := by
  simp [write32]
@[simp] theorem write32_answer (a : Addr) (v : Word32) : (write32 s a v).answer = s.answer := by
  simp [write32]
@[simp] theorem write32_mainPhase (a : Addr) (v : Word32) : (write32 s a v).mainPhase = s.mainPhase := by
  simp [write32]
@[simp] theorem write32_draws (a : Addr) (v : Word32) : (write32 s a v).draws = s.draws := by
  simp [write32]

/-! ### `busStore` changes the register file alone -/

@[simp] theorem busStore_pstate (a : Addr) (v : Byte) : (busStore s a v).pstate = s.pstate := by
  unfold busStore; split <;> simp
@[simp] theorem busStore_busEn (a : Addr) (v : Byte) : (busStore s a v).busEn = s.busEn := by
  unfold busStore; split <;> simp
@[simp] theorem busStore_bstate (a : Addr) (v : Byte) : (busStore s a v).bstate = s.bstate := by
  unfold busStore; split <;> simp
@[simp] theorem busStore_ptr (a : Addr) (v : Byte) : (busStore s a v).ptr = s.ptr := by
  unfold busStore; split <;> simp
@[simp] theorem busStore_irqStart (a : Addr) (v : Byte) : (busStore s a v).irqStart = s.irqStart := by
  unfold busStore; split <;> simp
@[simp] theorem busStore_railCmd (a : Addr) (v : Byte) : (busStore s a v).railCmd = s.railCmd := by
  unfold busStore; split <;> simp
@[simp] theorem busStore_sleeping (a : Addr) (v : Byte) : (busStore s a v).sleeping = s.sleeping := by
  unfold busStore; split <;> simp
@[simp] theorem busStore_trace (a : Addr) (v : Byte) : (busStore s a v).trace = s.trace := by
  unfold busStore; split <;> simp
@[simp] theorem busStore_cfg (a : Addr) (v : Byte) : (busStore s a v).cfg = s.cfg := by
  unfold busStore; split <;> simp
@[simp] theorem busStore_railGood (a : Addr) (v : Byte) : (busStore s a v).railGood = s.railGood := by
  unfold busStore; split <;> simp
@[simp] theorem busStore_powerGood (a : Addr) (v : Byte) : (busStore s a v).powerGood = s.powerGood := by
  unfold busStore; split <;> simp
@[simp] theorem busStore_inputs (a : Addr) (v : Byte) : (busStore s a v).inputs = s.inputs := by
  unfold busStore; split <;> simp
@[simp] theorem busStore_answer (a : Addr) (v : Byte) : (busStore s a v).answer = s.answer := by
  unfold busStore; split <;> simp
@[simp] theorem busStore_mainPhase (a : Addr) (v : Byte) : (busStore s a v).mainPhase = s.mainPhase := by
  unfold busStore; split <;> simp
@[simp] theorem busStore_draws (a : Addr) (v : Byte) : (busStore s a v).draws = s.draws := by
  unfold busStore; split <;> simp

end Sys2Proof.Machine
end

