-- ==== Sys2Proof/Laws/Memory.lean ====
section
/-! SUPPORT. The basic laws of the register file as memory (spec/20_memory.md rules R45, R46, R54): a read after a
write to the same cell gives the value written, a write leaves every other cell alone, and every write keeps the
canonical form (assumption log entry 7). -/

namespace Sys2Proof.Machine

variable (d : Nat → Byte)

@[simp] theorem Memory.read_nil (n : Nat) : Memory.read d [] n = d n := rfl

theorem Memory.read_insert_self (m : Memory) (n : Nat) (v : Byte) : (m.insert n v).read d n = v := by
  induction m with
  | nil => simp [Memory.insert, Memory.read]
  | cons cell m ih =>
    obtain ⟨k, w⟩ := cell
    simp only [Memory.insert]
    split
    · simp [Memory.read]
    · split
      · simp [Memory.read]
      · have : k ≠ n := fun h => by omega
        simp [Memory.read, this, ih]

theorem Memory.read_insert_other (m : Memory) {n k : Nat} (h : k ≠ n) (v : Byte) :
    (m.insert n v).read d k = m.read d k := by
  induction m with
  | nil => simp [Memory.insert, Memory.read, Ne.symm h]
  | cons cell m ih =>
    obtain ⟨j, w⟩ := cell
    simp only [Memory.insert]
    split
    · simp [Memory.read, Ne.symm h]
    · split
      · next _ hj => subst hj; simp [Memory.read, Ne.symm h]
      · simp [Memory.read, ih]

theorem Memory.read_filter_self (m : Memory) (n : Nat) :
    Memory.read d (m.filter fun cell => cell.1 ≠ n) n = d n := by
  induction m with
  | nil => rfl
  | cons cell m ih =>
    by_cases h : cell.1 = n
    · simpa [List.filter_cons, h] using ih
    · simpa [List.filter_cons, h, Memory.read] using ih

theorem Memory.read_filter_other (m : Memory) {n k : Nat} (h : k ≠ n) :
    Memory.read d (m.filter fun cell => cell.1 ≠ n) k = m.read d k := by
  induction m with
  | nil => rfl
  | cons cell m ih =>
    by_cases hc : cell.1 = n
    · have : cell.1 ≠ k := fun h' => h (h'.symm.trans hc)
      simpa [List.filter_cons, hc, Memory.read, this, Ne.symm h] using ih
    · simp only [ne_eq, List.filter_cons, hc, not_false_eq_true, decide_true, if_true, Memory.read] at ih ⊢
      rw [ih]

/-- A read after a write to the same cell gives the value written (rule R54). -/
@[simp] theorem Memory.read_write_self (m : Memory) (n : Nat) (v : Byte) : (m.write d n v).read d n = v := by
  unfold Memory.write
  split
  · next h => rw [Memory.read_filter_self, h]
  · exact Memory.read_insert_self d m n v

/-- A write leaves every other cell alone. -/
theorem Memory.read_write_other (m : Memory) {n k : Nat} (h : k ≠ n) (v : Byte) :
    (m.write d n v).read d k = m.read d k := by
  unfold Memory.write
  split
  · exact Memory.read_filter_other d m h
  · exact Memory.read_insert_other d m h v

/-! ## The canonical form -/

theorem Memory.mem_insert {m : Memory} {n : Nat} {v : Byte} {cell : Host.Cell}
    (h : cell ∈ m.insert n v) : cell = (n, v) ∨ cell ∈ m := by
  induction m with
  | nil => simpa [Memory.insert] using h
  | cons c m ih =>
    obtain ⟨k, w⟩ := c
    simp only [Memory.insert] at h
    split at h
    · simpa using h
    · split at h
      · rcases List.mem_cons.mp h with h | h
        · exact .inl h
        · exact .inr (List.mem_cons_of_mem _ h)
      · rcases List.mem_cons.mp h with h | h
        · exact .inr (h ▸ List.mem_cons_self)
        · exact (ih h).imp id (List.mem_cons_of_mem _)

theorem Memory.insert_rising {m : Memory} (n : Nat) (v : Byte)
    (h : m.Pairwise fun a b => a.1 < b.1) : (m.insert n v).Pairwise fun a b => a.1 < b.1 := by
  induction m with
  | nil => simp [Memory.insert]
  | cons c m ih =>
    obtain ⟨k, w⟩ := c
    obtain ⟨hk, hm⟩ := List.pairwise_cons.mp h
    simp only [Memory.insert]
    split
    · next hn =>
      refine List.pairwise_cons.mpr ⟨fun b hb => ?_, h⟩
      rcases List.mem_cons.mp hb with rfl | hb
      · exact hn
      · exact Nat.lt_trans hn (hk b hb)
    · split
      · next _ hn => subst hn; exact List.pairwise_cons.mpr ⟨hk, hm⟩
      · refine List.pairwise_cons.mpr ⟨fun b hb => ?_, ih hm⟩
        rcases Memory.mem_insert hb with rfl | hb
        · show k < n; omega
        · exact hk b hb

theorem Memory.wf_iff {c : Cfg} {m : Memory} :
    m.wf c = true ↔ (m.Pairwise fun a b => a.1 < b.1) ∧
      ∀ cell ∈ m, c.defines cell.1 = true ∧ cell.2 ≠ unlistedByte c cell.1 := by
  simp [Memory.wf]

@[simp] theorem Memory.wf_nil (c : Cfg) : Memory.wf c [] = true := rfl

/-- A write to a cell of `Defined` keeps the canonical form. -/
theorem Memory.write_wf {c : Cfg} {m : Memory} {n : Nat} (v : Byte) (h : m.wf c = true)
    (hn : c.defines n = true) : (m.write (unlistedByte c) n v).wf c = true := by
  obtain ⟨hs, hc⟩ := Memory.wf_iff.mp h
  unfold Memory.write
  split
  · exact Memory.wf_iff.mpr ⟨hs.filter _, fun cell hm => hc cell (List.mem_filter.mp hm).1⟩
  · next hv =>
    refine Memory.wf_iff.mpr ⟨Memory.insert_rising n v hs, fun cell hm => ?_⟩
    rcases Memory.mem_insert hm with rfl | hm
    · exact ⟨hn, hv⟩
    · exact hc cell hm

/-- Every store of one byte keeps the canonical form. -/
theorem writeByte_wf {s : State} (n : Nat) (v : Byte) (h : s.reg.wf s.cfg = true) :
    (writeByte s n v).reg.wf s.cfg = true := by
  unfold writeByte
  split
  · next hn => exact Memory.write_wf v h hn
  · exact h

/-- The register file after reset is canonical. -/
theorem reset_reg_wf : State.reset.reg.wf State.reset.cfg = true := rfl

end Sys2Proof.Machine
end

