-- ==== Sys2Proof/Laws/Ops.lean ====
section
/-! SUPPORT. One lemma per shared operation that says once everything it can do; proofs cite it instead of unfolding
the operation. -/

namespace Sys2Proof.Machine

/-! ## Reads -/

/-- A read of one byte depends on the configuration and the register file alone. -/
theorem readByte_congr {s t : State} (hc : t.cfg = s.cfg) (hr : t.reg = s.reg) (n : Nat) :
    readByte t n = readByte s n := by
  simp [readByte, hc, hr]

theorem readByte_undefined {s : State} {n : Nat} (h : s.cfg.defines n = false) : readByte s n = 0 := by
  simp [readByte, h]

/-- No address above 0xFF is in `Defined`. -/
theorem defines_lt {c : Cfg} {n : Nat} (h : c.defines n = true) : n < 256 := by
  obtain ⟨r, hr⟩ := Option.isSome_iff_exists.mp h
  have := List.find?_some hr
  simp only [beq_iff_eq] at this
  exact this ▸ r.addr.isLt

@[simp] theorem readByte_reply (s : State) (a : Answer) (n : Nat) : readByte (reply s a) n = readByte s n := rfl
@[simp] theorem readByte_emit (s : State) (e : OutEvent) (n : Nat) : readByte (emit s e) n = readByte s n := rfl
@[simp] theorem readByte_deliver (s : State) (n : Nat) : readByte (deliver s) n = readByte s n := rfl
@[simp] theorem readByte_drawn (s : State) (n : Nat) : readByte (drawn s) n = readByte s n := rfl
@[simp] theorem readByte_startBus (s : State) (n : Nat) : readByte (startBus s) n = readByte s n := rfl
@[simp] theorem readByte_stopBus (s : State) (n : Nat) : readByte (stopBus s) n = readByte s n := rfl
@[simp] theorem readByte_endTransaction (s : State) (n : Nat) :
    readByte (endTransaction s) n = readByte s n := rfl
@[simp] theorem readByte_advancePtr (s : State) (n : Nat) : readByte (advancePtr s) n = readByte s n := rfl
@[simp] theorem readByte_actuateRailOn (s : State) (n : Nat) :
    readByte (actuateRailOn s) n = readByte s n := rfl
@[simp] theorem readByte_actuateRailOff (s : State) (n : Nat) :
    readByte (actuateRailOff s) n = readByte s n := rfl

/-! ## Writes -/

/-- `MemWrite(a, 1, v)` changes the register file alone. -/
theorem writeByte_eq (s : State) (n : Nat) (v : Byte) :
    writeByte s n v = { s with reg := (writeByte s n v).reg } := by
  unfold writeByte; split <;> rfl

theorem writeByte_undefined {s : State} {n : Nat} (h : s.cfg.defines n = false) (v : Byte) :
    writeByte s n v = s := by
  simp [writeByte, h]

/-- What a read finds after a write (rules R45, R46, R54). -/
theorem readByte_writeByte (s : State) (n k : Nat) (v : Byte) :
    readByte (writeByte s n v) k = if k = n ∧ s.cfg.defines n = true then v else readByte s k := by
  by_cases hd : s.cfg.defines n = true
  · by_cases hk : k = n
    · subst hk; simp [writeByte, readByte, hd]
    · simp [writeByte, readByte, hd, hk, Memory.read_write_other]
  · simp [writeByte, hd]

theorem readByte_writeByte_self {s : State} {n : Nat} (h : s.cfg.defines n = true) (v : Byte) :
    readByte (writeByte s n v) n = v := by
  simp [readByte_writeByte, h]

theorem readByte_writeByte_other (s : State) {n k : Nat} (h : k ≠ n) (v : Byte) :
    readByte (writeByte s n v) k = readByte s k := by
  simp [readByte_writeByte, h]

/-- `MemWrite(a, 4, v)` changes the register file alone. -/
theorem write32_eq (s : State) (a : Addr) (v : Word32) :
    write32 s a v = { s with reg := (write32 s a v).reg } := by
  simp only [write32]
  rw [writeByte_eq, writeByte_eq (writeByte (writeByte s _ _) _ _), writeByte_eq (writeByte s _ _), writeByte_eq s]

/-- Each byte of a 32-bit store lands at its own address, if that is in `Defined`. -/
theorem readByte_write32 (s : State) (a : Addr) (v : Word32) (k : Nat) :
    readByte (write32 s a v) k =
      if s.cfg.defines k = true ∧ k = a.toNat then byteOf v 0
      else if s.cfg.defines k = true ∧ k = a.toNat + 1 then byteOf v 1
      else if s.cfg.defines k = true ∧ k = a.toNat + 2 then byteOf v 2
      else if s.cfg.defines k = true ∧ k = a.toNat + 3 then byteOf v 3
      else readByte s k := by
  simp only [write32, readByte_writeByte, writeByte_cfg]
  by_cases hd : s.cfg.defines k = true
  · by_cases h0 : k = a.toNat
    · subst h0; simp [hd]
    · by_cases h1 : k = a.toNat + 1
      · subst h1; simp [hd]
      · by_cases h2 : k = a.toNat + 2
        · subst h2; simp [hd]
        · by_cases h3 : k = a.toNat + 3
          · subst h3; simp [hd]
          · simp [h0, h1, h2, h3]
  · have hn : ∀ n, ¬ (k = n ∧ s.cfg.defines n = true) := fun n h => hd (h.1 ▸ h.2)
    simp [hd, hn]

theorem byteOf_assemble32 (b0 b1 b2 b3 : Byte) :
    byteOf (assemble32 b0 b1 b2 b3) 0 = b0 ∧ byteOf (assemble32 b0 b1 b2 b3) 1 = b1 ∧
      byteOf (assemble32 b0 b1 b2 b3) 2 = b2 ∧ byteOf (assemble32 b0 b1 b2 b3) 3 = b3 := by
  refine ⟨?_, ?_, ?_, ?_⟩ <;>
  · ext i hi
    simp only [byteOf, assemble32, BitVec.getElem_extractLsb', BitVec.getLsbD_append]
    have : i < 8 := hi
    split <;> first | omega | skip
    try (split <;> first | omega | skip)
    try (split <;> first | omega | skip)
    all_goals rw [← BitVec.getLsbD_eq_getElem]; congr 1; omega

theorem assemble32_byteOf (v : Word32) :
    assemble32 (byteOf v 0) (byteOf v 1) (byteOf v 2) (byteOf v 3) = v := by
  refine BitVec.eq_of_getLsbD_eq fun i hi => ?_
  simp only [assemble32, byteOf, BitVec.getLsbD_append, BitVec.getLsbD_extractLsb']
  split
  · simp [*]
  · split
    · have : 8 * 1 + (i - 8) = i := by omega
      simp [*]
    · split
      · have : 8 * 2 + (i - 8 - 8) = i := by omega
        simp [*]
      · have : 8 * 3 + (i - 8 - 8 - 8) = i := by omega
        have : i - 8 - 8 - 8 < 8 := by omega
        simp [*]

/-! ## Masks -/

theorem readByte_setBits (s : State) (a : Addr) (bits : Byte) (k : Nat) :
    readByte (setBits s a bits) k =
      if k = a.toNat ∧ s.cfg.defines a.toNat = true then readByte s a.toNat ||| bits else readByte s k :=
  readByte_writeByte s _ k _

theorem readByte_clearBits (s : State) (a : Addr) (bits : Byte) (k : Nat) :
    readByte (clearBits s a bits) k =
      if k = a.toNat ∧ s.cfg.defines a.toNat = true then readByte s a.toNat &&& ~~~bits else readByte s k :=
  readByte_writeByte s _ k _

/-! ## The bus port -/

theorem busStore_eq (s : State) (a : Addr) (v : Byte) :
    busStore s a v = { s with reg := (busStore s a v).reg } := by
  unfold busStore; split
  · exact writeByte_eq s _ v
  · rfl

theorem readByte_busStore (s : State) (a : Addr) (v : Byte) (k : Nat) :
    readByte (busStore s a v) k =
      if accept s.cfg a v = true ∧ k = a.toNat ∧ s.cfg.defines a.toNat = true then v else readByte s k := by
  unfold busStore
  split
  · next h => simp [h, readByte_writeByte]
  · next h => simp [h]

/-! ## The start-event handler -/

/-- `handleStart` either does nothing or ORs the whole reason in and powers on; one test decides both (R128). -/
theorem handleStart_cases (s : State) (reason : Byte) :
    (startAdmitted s.pstate reason (readReg s .startEnable) = false ∧ handleStart s reason = s) ∨
    (startAdmitted s.pstate reason (readReg s .startEnable) = true ∧
      handleStart s reason =
        { s with
          reg := (writeReg s .startReason (readReg s .startReason ||| reason)).reg
          pstate := .poweringOn }) := by
  unfold handleStart
  split
  · next h =>
    refine .inr ⟨h, ?_⟩
    rw [writeReg, writeByte_eq]
  · next h => exact .inl ⟨by simpa using h, rfl⟩

/-- The handler changes the register file and `pstate` alone. -/
theorem handleStart_eq (s : State) (reason : Byte) :
    handleStart s reason =
      { s with reg := (handleStart s reason).reg, pstate := (handleStart s reason).pstate } := by
  rcases handleStart_cases s reason with ⟨_, h⟩ | ⟨_, h⟩ <;> rw [h]

@[simp] theorem handleStart_busEn (s : State) (r : Byte) : (handleStart s r).busEn = s.busEn := by
  rw [handleStart_eq s r]
@[simp] theorem handleStart_bstate (s : State) (r : Byte) : (handleStart s r).bstate = s.bstate := by
  rw [handleStart_eq s r]
@[simp] theorem handleStart_ptr (s : State) (r : Byte) : (handleStart s r).ptr = s.ptr := by
  rw [handleStart_eq s r]
@[simp] theorem handleStart_irqStart (s : State) (r : Byte) : (handleStart s r).irqStart = s.irqStart := by
  rw [handleStart_eq s r]
@[simp] theorem handleStart_railCmd (s : State) (r : Byte) : (handleStart s r).railCmd = s.railCmd := by
  rw [handleStart_eq s r]
@[simp] theorem handleStart_sleeping (s : State) (r : Byte) : (handleStart s r).sleeping = s.sleeping := by
  rw [handleStart_eq s r]
@[simp] theorem handleStart_trace (s : State) (r : Byte) : (handleStart s r).trace = s.trace := by
  rw [handleStart_eq s r]
@[simp] theorem handleStart_cfg (s : State) (r : Byte) : (handleStart s r).cfg = s.cfg := by
  rw [handleStart_eq s r]
@[simp] theorem handleStart_railGood (s : State) (r : Byte) : (handleStart s r).railGood = s.railGood := by
  rw [handleStart_eq s r]
@[simp] theorem handleStart_powerGood (s : State) (r : Byte) : (handleStart s r).powerGood = s.powerGood := by
  rw [handleStart_eq s r]
@[simp] theorem handleStart_inputs (s : State) (r : Byte) : (handleStart s r).inputs = s.inputs := by
  rw [handleStart_eq s r]
@[simp] theorem handleStart_answer (s : State) (r : Byte) : (handleStart s r).answer = s.answer := by
  rw [handleStart_eq s r]
@[simp] theorem handleStart_mainPhase (s : State) (r : Byte) : (handleStart s r).mainPhase = s.mainPhase := by
  rw [handleStart_eq s r]
@[simp] theorem handleStart_draws (s : State) (r : Byte) : (handleStart s r).draws = s.draws := by
  rw [handleStart_eq s r]

/-- What a read finds after the handler: `START_REASON` (address 0x05) alone can change. -/
theorem readByte_handleStart (s : State) (reason : Byte) (n : Nat) :
    readByte (handleStart s reason) n =
      if startAdmitted s.pstate reason (readReg s .startEnable) = true ∧ n = 0x05 ∧ s.cfg.defines 0x05 = true then
        readByte s 0x05 ||| reason
      else readByte s n := by
  rcases handleStart_cases s reason with ⟨h, e⟩ | ⟨h, e⟩
  · simp [e, h]
  · rw [e]
    refine Eq.trans
      (readByte_congr (s := writeReg s .startReason (readReg s .startReason ||| reason)) ?_ ?_ n) ?_
    · simp
    · rfl
    simp only [writeReg, readByte_writeByte, h, true_and]
    rfl

/-- The handler admits its start only in `Off` and `OffPowerGood` (rule R128). -/
theorem startAdmitted_iff {p : PState} {reason enable : Byte} :
    startAdmitted p reason enable = true ↔
      (p = .off ∨ p = .offPowerGood) ∧ reason &&& enable ≠ 0 := by
  simp [startAdmitted, anyBit]

/-- A start request is lost, or delivered to the handler (rules R129 to R131). -/
theorem startRequest_cases (s : State) (i : Nat) (reason : Byte) :
    (irqEnabled s.irqStart i = false ∧ startRequest s i reason = s) ∨
    (irqEnabled s.irqStart i = true ∧ startRequest s i reason = handleStart (deliver s) reason) := by
  unfold startRequest
  split
  · next h => exact .inr ⟨h, rfl⟩
  · next h => exact .inl ⟨by simpa using h, rfl⟩

@[simp] theorem startRequest_cfg (s : State) (i : Nat) (reason : Byte) : (startRequest s i reason).cfg = s.cfg := by
  rcases startRequest_cases s i reason with ⟨_, e⟩ | ⟨_, e⟩ <;> simp [e]

/-! ## ClearMask -/

/-- What both `ClearMask` rows do (rules R114, R115). -/
theorem leaveClearMask_eq (s : State) :
    leaveClearMask s =
      { s with
        reg := (writeReg s .startReason 0).reg
        irqStart := irqStartOf (readReg s .startEnable)
        trace := s.trace ++
          [.armCountdown (readReg s .restartHours) (readReg s .restartMinutes) (readReg s .restartSeconds)] } := by
  unfold leaveClearMask writeReg writeByte
  dsimp only [emit]
  split <;> rfl

@[simp] theorem leaveClearMask_pstate (s : State) : (leaveClearMask s).pstate = s.pstate := by
  rw [leaveClearMask_eq s]
@[simp] theorem leaveClearMask_busEn (s : State) : (leaveClearMask s).busEn = s.busEn := by
  rw [leaveClearMask_eq s]
@[simp] theorem leaveClearMask_bstate (s : State) : (leaveClearMask s).bstate = s.bstate := by
  rw [leaveClearMask_eq s]
@[simp] theorem leaveClearMask_ptr (s : State) : (leaveClearMask s).ptr = s.ptr := by
  rw [leaveClearMask_eq s]
@[simp] theorem leaveClearMask_railCmd (s : State) : (leaveClearMask s).railCmd = s.railCmd := by
  rw [leaveClearMask_eq s]
@[simp] theorem leaveClearMask_sleeping (s : State) : (leaveClearMask s).sleeping = s.sleeping := by
  rw [leaveClearMask_eq s]
@[simp] theorem leaveClearMask_cfg (s : State) : (leaveClearMask s).cfg = s.cfg := by
  rw [leaveClearMask_eq s]
@[simp] theorem leaveClearMask_railGood (s : State) : (leaveClearMask s).railGood = s.railGood := by
  rw [leaveClearMask_eq s]
@[simp] theorem leaveClearMask_powerGood (s : State) : (leaveClearMask s).powerGood = s.powerGood := by
  rw [leaveClearMask_eq s]
@[simp] theorem leaveClearMask_inputs (s : State) : (leaveClearMask s).inputs = s.inputs := by
  rw [leaveClearMask_eq s]
@[simp] theorem leaveClearMask_answer (s : State) : (leaveClearMask s).answer = s.answer := by
  rw [leaveClearMask_eq s]
@[simp] theorem leaveClearMask_mainPhase (s : State) : (leaveClearMask s).mainPhase = s.mainPhase := by
  rw [leaveClearMask_eq s]
@[simp] theorem leaveClearMask_draws (s : State) : (leaveClearMask s).draws = s.draws := by
  rw [leaveClearMask_eq s]

/-- What a read finds after a `ClearMask` row: `START_REASON` (address 0x05) is 0, every other cell as before. -/
theorem readByte_leaveClearMask (s : State) (n : Nat) :
    readByte (leaveClearMask s) n = if n = 0x05 then 0 else readByte s n := by
  rw [leaveClearMask_eq]
  refine Eq.trans (readByte_congr (s := writeReg s .startReason 0) ?_ ?_ n) ?_
  · simp
  · rfl
  simp only [writeReg, readByte_writeByte]
  by_cases hn : n = 0x05
  · subst hn
    by_cases hd : s.cfg.defines 0x05 = true
    · exact if_pos ⟨rfl, hd⟩
    · exact (if_neg fun h => hd h.2).trans (readByte_undefined (by simpa using hd))
  · rw [if_neg hn]
    exact if_neg fun h => hn h.1

/-! ## The canonical form -/

theorem writeReg_wf {s : State} (r : RegName) (v : Byte) (h : s.reg.wf s.cfg = true) :
    (writeReg s r v).reg.wf s.cfg = true := writeByte_wf _ v h

theorem write32_wf {s : State} (a : Addr) (v : Word32) (h : s.reg.wf s.cfg = true) :
    (write32 s a v).reg.wf s.cfg = true := by
  have step : ∀ {t : State} (n : Nat) (b : Byte), t.cfg = s.cfg → t.reg.wf s.cfg = true →
      (writeByte t n b).reg.wf s.cfg = true := fun {t} n b hc ht => by
    rw [← hc] at ht ⊢; exact writeByte_wf n b ht
  unfold write32
  refine step _ _ (by simp) (step _ _ (by simp) (step _ _ (by simp) (step _ _ rfl h)))

theorem busStore_wf {s : State} (a : Addr) (v : Byte) (h : s.reg.wf s.cfg = true) :
    (busStore s a v).reg.wf s.cfg = true := by
  unfold busStore; split
  · exact writeByte_wf _ v h
  · exact h

theorem handleStart_wf {s : State} (reason : Byte) (h : s.reg.wf s.cfg = true) :
    (handleStart s reason).reg.wf s.cfg = true := by
  rcases handleStart_cases s reason with ⟨_, e⟩ | ⟨_, e⟩ <;> rw [e]
  · exact h
  · exact writeReg_wf _ _ h

theorem leaveClearMask_wf {s : State} (h : s.reg.wf s.cfg = true) :
    (leaveClearMask s).reg.wf s.cfg = true := by
  rw [leaveClearMask_eq]; exact writeReg_wf _ _ h

/-! ## HardwareReset -/

/-- What the exception does (rule R150): every field at its reset value, the register file at its reset image with the
cause in `MCUSR`, `rail_cmd` a draw. -/
theorem hardwareReset_eq (s : State) (cause : Byte) :
    hardwareReset s cause =
      { s with
        reg := (writeReg { s with reg := [] } .mcusr cause).reg
        pstate := .init
        busEn := false
        bstate := .idle
        ptr := 0
        irqStart := 0
        sleeping := false
        railCmd := Config.freeBit s.draws
        draws := s.draws + 1
        trace := []
        mainPhase := .ready } := by
  simp [hardwareReset]

/-- What a read finds after a reset: the cause in `MCUSR`, every other cell what it reads as unlisted. -/
theorem readByte_hardwareReset (s : State) (cause : Byte) (n : Nat) :
    readByte (hardwareReset s cause) n =
      if n = (s.cfg.addrOf .mcusr).toNat ∧ s.cfg.defines (s.cfg.addrOf .mcusr).toNat = true then cause
      else if s.cfg.defines n then unlistedByte s.cfg n else 0 := by
  rw [hardwareReset_eq]
  refine Eq.trans (readByte_congr (s := writeReg { s with reg := [] } .mcusr cause) ?_ ?_ n) ?_
  · simp
  · rfl
  · simp only [writeReg, readByte_writeByte]
    rfl

theorem hardwareReset_wf (s : State) (cause : Byte) : (hardwareReset s cause).reg.wf s.cfg = true := by
  rw [hardwareReset_eq]; exact writeReg_wf (s := { s with reg := [] }) _ _ rfl

end Sys2Proof.Machine
end

