-- ==== Sys2Proof/Laws/Step.lean ====
section
/-! SUPPORT. Once and for all what a step can do (spec/60_exceptions.md rules R142 to R147), and what the parts of a
main-loop iteration do (spec/42_power_controller.md rule R132). -/

namespace Sys2Proof.Machine

/-- What a served input leads to: nothing, or its operation. -/
theorem serveInput_cases (s : State) (inp : Input) (rest : List Input) :
    (serveInput s inp rest = .still (reply (serve s inp rest) .none) ∧
      ((∃ r, decode s.cfg (eventWord s inp.event) = .error r) ∨
        ∃ i, decode s.cfg (eventWord s inp.event) = .ok i ∧ s.sleeping = true ∧ runsInMain inp.ctx i = true)) ∨
    (∃ i, decode s.cfg (eventWord s inp.event) = .ok i ∧ serveInput s inp rest = .run i (serve s inp rest) ∧
      (s.sleeping = true → runsInMain inp.ctx i = false)) := by
  unfold serveInput
  cases h : decode s.cfg (eventWord s inp.event) with
  | error r => exact .inl ⟨rfl, .inl ⟨r, rfl⟩⟩
  | ok i =>
    by_cases hb : (s.sleeping && runsInMain inp.ctx i) = true
    · refine .inl ⟨by simp [hb], .inr ⟨i, rfl, ?_⟩⟩
      simpa using hb
    · refine .inr ⟨i, rfl, by simp [hb], fun hs => ?_⟩
      simpa [hs] using hb

/-- Every step is one of these: the suspended machine stands still, the main loop moves on its own, or the next input
is served. -/
theorem step_cases {s t : State} (h : step s = .next t) :
    (s.inputs = [] ∧ s.sleeping = true ∧ t = s) ∨
    (s.inputs = [] ∧ s.sleeping = false ∧ s.mainPhase = .ready ∧ exec .mainIter (freeSample s) = .next t) ∨
    (s.sleeping = false ∧ s.mainPhase ≠ .ready ∧ exec .mainIter s = .next t) ∨
    (∃ inp rest, s.inputs = inp :: rest ∧ t = reply (serve s inp rest) .none ∧
      ((∃ r, decode s.cfg (eventWord s inp.event) = .error r) ∨
        ∃ i, decode s.cfg (eventWord s inp.event) = .ok i ∧ s.sleeping = true ∧ runsInMain inp.ctx i = true)) ∨
    (∃ inp rest i, s.inputs = inp :: rest ∧ (midIteration s = false ∨ due s.mainPhase inp = true) ∧
      decode s.cfg (eventWord s inp.event) = .ok i ∧ (s.sleeping = true → runsInMain inp.ctx i = false) ∧
      exec i (serve s inp rest) = .next t) := by
  unfold step selectMove at h
  cases hi : s.inputs with
  | nil =>
    simp only [hi] at h
    split at h
    · next i s' hm =>
      split at hm
      · cases hm
      · next hs =>
        have hs : s.sleeping = false := by simpa using hs
        split at hm
        · next hp => cases hm; exact .inr (.inl ⟨rfl, hs, hp, h⟩)
        · next hp => cases hm; exact .inr (.inr (.inl ⟨hs, hp, h⟩))
    · next s' hm =>
      split at hm
      · next hs => cases hm; cases h; exact .inl ⟨rfl, hs, rfl⟩
      · split at hm <;> cases hm
  | cons inp rest =>
    simp only [hi] at h
    by_cases hmid : (midIteration s && !due s.mainPhase inp) = true
    · simp only [hmid, if_true] at h
      have hm : midIteration s = true := by revert hmid; cases midIteration s <;> simp
      simp only [midIteration, Bool.and_eq_true, bne_iff_ne, ne_eq, Bool.not_eq_eq_eq_not, Bool.not_true] at hm
      exact .inr (.inr (.inl ⟨hm.2, hm.1, h⟩))
    · simp only [hmid] at h
      have hp : midIteration s = false ∨ due s.mainPhase inp = true := by
        revert hmid; cases midIteration s <;> cases due s.mainPhase inp <;> simp
      rcases serveInput_cases s inp rest with ⟨hst, hw⟩ | ⟨i, hd, hrun, hmain⟩
      · simp only [Bool.false_eq_true, if_false, hst] at h
        cases h
        exact .inr (.inr (.inr (.inl ⟨inp, rest, rfl, rfl, hw⟩)))
      · simp only [Bool.false_eq_true, if_false, hrun] at h
        exact .inr (.inr (.inr (.inr ⟨inp, rest, i, rfl, hp, hd, hmain, h⟩)))

/-! ## One step evaluation -/

/-- What no row of the transition table touches (rules R111 to R126). -/
theorem stepOnce_eq (s : State) :
    stepOnce s =
      { s with
        reg := (stepOnce s).reg
        pstate := (stepOnce s).pstate
        busEn := (stepOnce s).busEn
        bstate := (stepOnce s).bstate
        ptr := (stepOnce s).ptr
        irqStart := (stepOnce s).irqStart
        railCmd := (stepOnce s).railCmd
        trace := (stepOnce s).trace } := by
  unfold stepOnce
  cases selectedRow s with
  | clearMaskPg => simp only [runRow]; rw [leaveClearMask_eq]
  | clearMaskNoPg => simp only [runRow]; rw [leaveClearMask_eq]
  | offPg => simp only [runRow]; rw [handleStart_eq]
  | _ => rfl

@[simp] theorem stepOnce_sleeping (s : State) : (stepOnce s).sleeping = s.sleeping := by
  rw [stepOnce_eq s]
@[simp] theorem stepOnce_cfg (s : State) : (stepOnce s).cfg = s.cfg := by
  rw [stepOnce_eq s]
@[simp] theorem stepOnce_railGood (s : State) : (stepOnce s).railGood = s.railGood := by
  rw [stepOnce_eq s]
@[simp] theorem stepOnce_powerGood (s : State) : (stepOnce s).powerGood = s.powerGood := by
  rw [stepOnce_eq s]
@[simp] theorem stepOnce_inputs (s : State) : (stepOnce s).inputs = s.inputs := by
  rw [stepOnce_eq s]
@[simp] theorem stepOnce_answer (s : State) : (stepOnce s).answer = s.answer := by
  rw [stepOnce_eq s]
@[simp] theorem stepOnce_mainPhase (s : State) : (stepOnce s).mainPhase = s.mainPhase := by
  rw [stepOnce_eq s]
@[simp] theorem stepOnce_draws (s : State) : (stepOnce s).draws = s.draws := by
  rw [stepOnce_eq s]

/-! ## The parts of a main-loop iteration -/

/-- The suspend test: in `On` the loop goes round, elsewhere it suspends (rule R132). -/
theorem suspendPart_cases (s : State) :
    (s.pstate = .on ∧ suspendPart s = { s with mainPhase := .ready }) ∨
    (s.pstate ≠ .on ∧
      suspendPart s = { s with mainPhase := .ready, sleeping := true, trace := s.trace ++ [.sleep] }) := by
  unfold suspendPart
  by_cases h : s.pstate = .on <;> simp [h, emit]

@[simp] theorem dueAt_emit (p : MainPhase) (s : State) (e : OutEvent) : dueAt p (emit s e) = dueAt p s := rfl
@[simp] theorem dueAt_stepOnce (p : MainPhase) (s : State) : dueAt p (stepOnce s) = dueAt p s := by
  simp only [dueAt, stepOnce_inputs]

/-- The heartbeat, then the suspend test unless an input falls between. -/
theorem kickPart_cases (s : State) :
    (dueAt .suspendDue s = true ∧
      kickPart s = { s with trace := s.trace ++ [.wdtKick], mainPhase := .suspendDue }) ∨
    (dueAt .suspendDue s = false ∧ kickPart s = suspendPart { s with trace := s.trace ++ [.wdtKick] }) := by
  unfold kickPart
  cases h : dueAt .suspendDue s with
  | true => exact .inl ⟨rfl, by simp [h]⟩
  | false => exact .inr ⟨rfl, by simp [h]; rfl⟩

/-- The step evaluation, then the heartbeat unless an input falls between. -/
theorem stepPart_cases (s : State) :
    (dueAt .kickDue s = true ∧ stepPart s = { stepOnce s with mainPhase := .kickDue }) ∨
    (dueAt .kickDue s = false ∧ stepPart s = kickPart (stepOnce s)) := by
  unfold stepPart
  cases h : dueAt .kickDue s with
  | true => exact .inl ⟨rfl, by simp [h]⟩
  | false => exact .inr ⟨rfl, by simp [h]⟩

/-- What is left of an iteration, as one record: the `step` part ran if the loop stood between iterations, then only
the trace, the phase and `sleeping` change; it suspends only outside `On` and only between iterations. -/
theorem runMain_cases (s : State) :
    ∃ (s0 : State) (tr : List OutEvent) (ph : MainPhase) (sl : Bool),
      (s0 = s ∧ s.mainPhase ≠ .ready ∨ s0 = stepOnce s ∧ s.mainPhase = .ready) ∧
      runMain s = { s0 with trace := tr, mainPhase := ph, sleeping := sl } ∧
      (sl = true → s.sleeping = true ∨ (s0.pstate ≠ .on ∧ ph = .ready)) := by
  have hs : ∀ s : State, ∃ tr ph sl, suspendPart s = { s with trace := tr, mainPhase := ph, sleeping := sl } ∧
      (sl = true → s.sleeping = true ∨ (s.pstate ≠ .on ∧ ph = .ready)) := by
    intro s
    rcases suspendPart_cases s with ⟨h, e⟩ | ⟨h, e⟩
    · exact ⟨s.trace, .ready, s.sleeping, e, .inl⟩
    · exact ⟨_, _, _, e, fun _ => .inr ⟨h, rfl⟩⟩
  have hk : ∀ s : State, ∃ tr ph sl, kickPart s = { s with trace := tr, mainPhase := ph, sleeping := sl } ∧
      (sl = true → s.sleeping = true ∨ (s.pstate ≠ .on ∧ ph = .ready)) := by
    intro s
    rcases kickPart_cases s with ⟨h, e⟩ | ⟨h, e⟩
    · exact ⟨_, _, s.sleeping, e, .inl⟩
    · obtain ⟨tr, ph, sl, e', h'⟩ := hs { s with trace := s.trace ++ [.wdtKick] }
      exact ⟨tr, ph, sl, e.trans e', h'⟩
  unfold runMain
  cases hm : s.mainPhase with
  | ready =>
    rcases stepPart_cases s with ⟨h, e⟩ | ⟨h, e⟩
    · exact ⟨stepOnce s, _, _, (stepOnce s).sleeping, .inr ⟨rfl, rfl⟩, e, fun x => .inl (by simpa using x)⟩
    · obtain ⟨tr, ph, sl, e', h'⟩ := hk (stepOnce s)
      exact ⟨stepOnce s, tr, ph, sl, .inr ⟨rfl, rfl⟩, e.trans e', by simpa using h'⟩
  | kickDue =>
    obtain ⟨tr, ph, sl, e', h'⟩ := hk s
    exact ⟨s, tr, ph, sl, .inl ⟨rfl, by decide⟩, e', h'⟩
  | suspendDue =>
    obtain ⟨tr, ph, sl, e', h'⟩ := hs s
    exact ⟨s, tr, ph, sl, .inl ⟨rfl, by decide⟩, e', h'⟩

end Sys2Proof.Machine
end

