-- ==== Sys2Proof/Laws/Agents.lean ====
section
/-! SUPPORT. What a move of `FW_ENV` can do (spec/20_memory.md rule R58). -/

namespace Sys2Proof

/-- "the named addresses are pairwise distinct" (rule R9). -/
theorem Cfg.addrOf_inj {c : Cfg} (h : c.wellFormed = true) {m n : RegName}
    (e : (c.addrOf m).toNat = (c.addrOf n).toNat) : m = n := by
  have hd : c.namesDistinct = true := by
    simp only [Cfg.wellFormed, Bool.and_eq_true] at h; exact h.1.1.1.2
  simp only [Cfg.namesDistinct, decide_eq_true_eq] at hd
  exact List.inj_on_of_nodup_map hd (by cases m <;> decide) (by cases n <;> decide) (BitVec.eq_of_toNat_eq e)

/-- Every named address is in `Defined` (rule R9). -/
theorem Cfg.defines_addrOf {c : Cfg} (h : c.wellFormed = true) (n : RegName) :
    c.defines (c.addrOf n).toNat = true := by
  have hd : c.namesDefined = true := by
    simp only [Cfg.wellFormed, Bool.and_eq_true] at h; exact h.1.1.2
  simp only [Cfg.namesDefined, List.all_eq_true] at hd
  have hn := hd n (by cases n <;> decide)
  simp only [Cfg.classOf, beq_iff_eq, Option.map_eq_some_iff] at hn
  obtain ⟨d, h1, -⟩ := hn
  simp [Cfg.defines, h1]

/-- The four addresses of `SECONDS`, as plain numbers (rule R9). -/
theorem Cfg.seconds_toNat {c : Cfg} (h : c.wellFormed = true) :
    (c.addrOf .seconds1).toNat = (c.addrOf .seconds0).toNat + 1 ∧
    (c.addrOf .seconds2).toNat = (c.addrOf .seconds0).toNat + 2 ∧
    (c.addrOf .seconds3).toNat = (c.addrOf .seconds0).toNat + 3 := by
  have hs : c.secondsFit = true := by simp only [Cfg.wellFormed, Bool.and_eq_true] at h; exact h.1.2
  simp only [Cfg.secondsFit, decide_eq_true_eq] at hs
  simp only [Cfg.addrOf, BitVec.toNat_add, show BitVec.toNat (1 : Addr) = 1 from rfl,
    show BitVec.toNat (2 : Addr) = 2 from rfl, show BitVec.toNat (3 : Addr) = 3 from rfl]
  omega

end Sys2Proof

namespace Sys2Proof.Machine

/-- What an operation of `FW_ENV` leaves (rule R58): everything but the register file and the answer, and every named
register outside its column of rule R35. -/
theorem fwEnvAllows_frame {i : Instr} {s t : State} (hw : s.cfg.wellFormed = true)
    (hi : fwEnvAllows s.cfg i = true) (h : exec i s = .next t) :
    t = { s with reg := t.reg, answer := t.answer } ∧
    ∀ r, fwEnvWrites r = false → readReg t r = readReg s r := by
  have hne : ∀ r n : RegName, fwEnvWrites r = false → fwEnvWrites n = true →
      (s.cfg.addrOf r).toNat ≠ (s.cfg.addrOf n).toNat := by
    intro r n hr hn he
    rw [Cfg.addrOf_inj hw he, hn] at hr
    cases hr
  cases i <;> first | cases hi | skip
  case get8 a => cases h; exact ⟨rfl, fun _ _ => rfl⟩
  case get32 a => cases h; exact ⟨rfl, fun _ _ => rfl⟩
  case set8 a v =>
    cases h
    simp only [fwEnvAllows, beq_iff_eq] at hi
    refine ⟨by rw [writeByte_eq]; rfl, fun r hr => ?_⟩
    simp only [readReg, reply_cfg, writeByte_cfg, readByte_reply]
    rw [readByte_writeByte_other]
    rw [hi]; exact hne r .status hr rfl
  case setMask a v =>
    cases h
    simp only [fwEnvAllows, Bool.or_eq_true, beq_iff_eq] at hi
    refine ⟨by unfold setBits; rw [writeByte_eq]; rfl, fun r hr => ?_⟩
    simp only [readReg, reply_cfg, setBits_cfg, readByte_reply]
    unfold setBits
    rw [readByte_writeByte_other]
    rcases hi with e | e <;> rw [e]
    · exact hne r .status hr rfl
    · exact hne r .control hr rfl
  case clearMask a v =>
    cases h
    simp only [fwEnvAllows, Bool.or_eq_true, beq_iff_eq] at hi
    refine ⟨by unfold clearBits; rw [writeByte_eq]; rfl, fun r hr => ?_⟩
    simp only [readReg, reply_cfg, clearBits_cfg, readByte_reply]
    unfold clearBits
    rw [readByte_writeByte_other]
    rcases hi with e | e <;> rw [e]
    · exact hne r .status hr rfl
    · exact hne r .control hr rfl
  case set32 a v =>
    cases h
    simp only [fwEnvAllows, Bool.or_eq_true, Bool.and_eq_true, beq_iff_eq, Bool.not_eq_true'] at hi
    refine ⟨by rw [write32_eq]; rfl, fun r hr => ?_⟩
    simp only [readReg, reply_cfg, write32_cfg, readByte_reply, readByte_write32]
    have hd := Cfg.defines_addrOf hw r
    have h0 := hne r .seconds0 hr rfl
    have h1 := hne r .seconds1 hr rfl
    have h2 := hne r .seconds2 hr rfl
    have h3 := hne r .seconds3 hr rfl
    have hs := hne r .status hr rfl
    obtain ⟨e1, e2, e3⟩ := Cfg.seconds_toNat hw
    rw [e1] at h1; rw [e2] at h2; rw [e3] at h3
    rcases hi with e | ⟨⟨⟨e, d1⟩, d2⟩, d3⟩
    · rw [e]; simp [h0, h1, h2, h3]
    · have n1 : (s.cfg.addrOf r).toNat ≠ a.toNat + 1 := fun x => by rw [x, d1] at hd; cases hd
      have n2 : (s.cfg.addrOf r).toNat ≠ a.toNat + 2 := fun x => by rw [x, d2] at hd; cases hd
      have n3 : (s.cfg.addrOf r).toNat ≠ a.toNat + 3 := fun x => by rw [x, d3] at hd; cases hd
      rw [if_neg (fun x => hs (by rw [x.2, e])), if_neg (fun x => n1 x.2), if_neg (fun x => n2 x.2),
        if_neg (fun x => n3 x.2)]

/-- What a move of `FW_ENV` is: a word of the firmware port, in context `main`, of one of its operations. -/
theorem isFwEnvMove_cases {s : State} {inp : Input} (h : inp.isFwEnvMove s.cfg = true) :
    ∃ i, decode s.cfg (eventWord s inp.event) = .ok i ∧ fwEnvAllows s.cfg i = true ∧
      runsInMain inp.ctx i = true := by
  unfold Input.isFwEnvMove at h
  cases he : inp.event with
  | store w =>
    rw [he] at h
    simp only [Bool.and_eq_true, beq_iff_eq] at h
    cases hd : decode s.cfg (.storeOp w) with
    | error r => rw [hd] at h; cases h.2
    | ok i =>
      rw [hd] at h
      refine ⟨i, hd, h.2, ?_⟩
      have hi := h.2
      rw [h.1]
      cases i <;> first | rfl | cases hi
  | bus w => rw [he] at h; cases h
  | pwr w => rw [he] at h; cases h
  | internal w => rw [he] at h; cases h

/-- A store operation comes from the firmware port alone; where `FW_ENV` drives that port, it is one of its operations. -/
theorem fwEnvDrivesPort_allows {s : State} {inp : Input} {rest : List Input} {i : Instr}
    (hf : fwEnvDrivesPort s = true) (hi : s.inputs = inp :: rest)
    (hd : decode s.cfg (eventWord s inp.event) = .ok i) (hs : i.format = .storeOp) :
    fwEnvAllows s.cfg i = true := by
  unfold fwEnvDrivesPort at hf
  simp only [hi, List.all_cons, Bool.and_eq_true] at hf
  have hf := hf.1
  cases he : inp.event with
  | store w =>
    rw [he] at hf
    obtain ⟨j, hj, ha, -⟩ := isFwEnvMove_cases hf
    rw [hd] at hj
    cases hj
    exact ha
  | bus w =>
    rw [he] at hd
    rcases decodeBusEvent_cases hd with ⟨-, rfl⟩ | ⟨-, h⟩
    · cases hs
    · rcases h with ⟨_, rfl⟩ | ⟨_, rfl⟩ | ⟨_, rfl⟩ | ⟨_, rfl⟩ | ⟨-, _, rfl⟩ | ⟨-, _, rfl⟩ | ⟨_, rfl⟩ | rfl | rfl |
        ⟨-, rfl⟩ | rfl <;> cases hs
  | pwr w =>
    rw [he] at hd
    rcases decodePwr_cases hd with rfl | rfl | ⟨_, rfl⟩ | rfl | rfl | rfl | rfl | ⟨_, rfl⟩ | rfl <;> cases hs
  | internal w =>
    rw [he] at hd
    simp only [eventWord, decode, decodeInternal, Except.ok.injEq] at hd
    rw [← hd] at hs
    split at hs <;> cases hs

/-- "never while `sleeping = 1`" (rule R58): a move of `FW_ENV` that the schedule has there does nothing. -/
theorem fwEnvMove_asleep {s : State} {inp : Input} {rest : List Input} (hs : s.sleeping = true)
    (hi : s.inputs = inp :: rest) (h : inp.isFwEnvMove s.cfg = true) :
    step s = .next (reply (serve s inp rest) .none) := by
  obtain ⟨i, hd, -, hm⟩ := isFwEnvMove_cases h
  unfold step selectMove serveInput
  simp [hi, midIteration, hs, hd, hm]

/-- Awake and due, a move of `FW_ENV` is one of its operations. -/
theorem fwEnvMove_awake {s : State} {inp : Input} {rest : List Input} (hs : s.sleeping = false)
    (hi : s.inputs = inp :: rest) (hdue : midIteration s = false ∨ due s.mainPhase inp = true)
    (h : inp.isFwEnvMove s.cfg = true) :
    ∃ i, fwEnvAllows s.cfg i = true ∧ step s = exec i (serve s inp rest) := by
  obtain ⟨i, hd, ha, -⟩ := isFwEnvMove_cases h
  refine ⟨i, ha, ?_⟩
  have hm : (midIteration s && !due s.mainPhase inp) = false := by
    rcases hdue with e | e <;> simp [e]
  unfold step selectMove serveInput
  simp [hi, hm, hd, hs]

end Sys2Proof.Machine
end

