-- ==== Sys2Proof/Laws/PerInstr.lean ====
section
/-! SUPPORT. The per-operation family `EncodesInItsFormat`: the word `encode` writes for an operation is in the
format that its row of spec/opcode_table.json gives (spec/30_encoding.md rule R61). -/

namespace Sys2Proof.Laws.EncodesInItsFormat

/-- The encoded word is of the operation's own format. -/
def Statement (i : Instr) : Prop := (encode i).format = i.format

theorem get8 (addr : Addr) : Statement (.get8 addr) := rfl
theorem set8 (addr : Addr) (v : Byte) : Statement (.set8 addr v) := rfl
theorem setMask (addr : Addr) (bits : Byte) : Statement (.setMask addr bits) := rfl
theorem clearMask (addr : Addr) (bits : Byte) : Statement (.clearMask addr bits) := rfl
theorem get32 (addr : Addr) : Statement (.get32 addr) := rfl
theorem set32 (addr : Addr) (v : Word32) : Statement (.set32 addr v) := rfl
theorem busRead8 (addr : Addr) : Statement (.busRead8 addr) := rfl
theorem busWrite8 (addr : Addr) (v : Byte) : Statement (.busWrite8 addr v) := rfl
theorem busEnable : Statement (.busEnable) := rfl
theorem busDisable : Statement (.busDisable) := rfl
theorem busOffIgn : Statement (.busOffIgn) := rfl
theorem busStartW (ab : Byte) : Statement (.busStartW ab) := rfl
theorem busStartR (ab : Byte) : Statement (.busStartR ab) := rfl
theorem busStartOther (ab : Byte) : Statement (.busStartOther ab) := rfl
theorem busRxAddr (b : Byte) : Statement (.busRxAddr b) := rfl
theorem busRxData (b : Byte) : Statement (.busRxData b) := rfl
theorem busRxIgnIdle (b : Byte) : Statement (.busRxIgnIdle b) := rfl
theorem busRxIgnReading (b : Byte) : Statement (.busRxIgnReading b) := rfl
theorem busTxData : Statement (.busTxData) := rfl
theorem busTxIgnUnaddressed : Statement (.busTxIgnUnaddressed) := rfl
theorem busTxIgnWriting : Statement (.busTxIgnWriting) := rfl
theorem busStop : Statement (.busStop) := rfl
theorem stepInitUp : Statement (.stepInitUp) := rfl
theorem stepInitDown : Statement (.stepInitDown) := rfl
theorem stepClearMaskPg : Statement (.stepClearMaskPg) := rfl
theorem stepClearMaskNoPg : Statement (.stepClearMaskNoPg) := rfl
theorem stepOffHold : Statement (.stepOffHold) := rfl
theorem stepOffPg : Statement (.stepOffPg) := rfl
theorem stepOffPgDrop : Statement (.stepOffPgDrop) := rfl
theorem stepOffPgHold : Statement (.stepOffPgHold) := rfl
theorem stepOnHold : Statement (.stepOnHold) := rfl
theorem stepPonDone : Statement (.stepPonDone) := rfl
theorem stepPonRetry : Statement (.stepPonRetry) := rfl
theorem stepPoff : Statement (.stepPoff) := rfl
theorem stepOnFail : Statement (.stepOnFail) := rfl
theorem stepUnkUp : Statement (.stepUnkUp) := rfl
theorem stepUnkDown : Statement (.stepUnkDown) := rfl
theorem step : Statement (.step) := rfl
theorem requestPowerDown : Statement (.requestPowerDown) := rfl
theorem handleStartEvent (reason : Byte) : Statement (.handleStartEvent reason) := rfl
theorem irqStartButton : Statement (.irqStartButton) := rfl
theorem irqStartOpto : Statement (.irqStartOpto) := rfl
theorem irqStartTimeout : Statement (.irqStartTimeout) := rfl
theorem mainIter : Statement (.mainIter) := rfl
theorem reset (cause : Byte) : Statement (.reset cause) := rfl
theorem wake : Statement (.wake) := rfl

end Sys2Proof.Laws.EncodesInItsFormat
end

