-- ==== Sys2Proof/Tests/Slice0.lean ====
section
/-! SUPPORT. Tests. The expected values are those of spec/95_test_vectors.md (vectors S1 to S9, V1 to V64, programs P1
to P5) or of the rule a test names, under `DEFAULT`; none was taken from a run of the model. The last part shows, for
each statement with hypotheses, a concrete case that meets them. -/

namespace Sys2Proof.Machine.Tests

open Sys2Proof Sys2Proof.Machine

/-- `State.reset` with registers set. -/
def withRegs (cells : List (Nat × Byte)) : State :=
  cells.foldl (fun s c => writeByte s c.1 c.2) State.reset

/-- The state `(On, 1, Idle, 00, 0, 1, 0)` of the vectors of part 2.2, with registers set. -/
def busUp (cells : List (Nat × Byte)) : State :=
  { withRegs cells with pstate := .on, busEn := true, railCmd := true }

/-- A power-controller state with registers set. -/
def powered (p : PState) (mask : BitVec 4) (cells : List (Nat × Byte)) : State :=
  { withRegs cells with pstate := p, irqStart := mask }

/-- The state after one operation. -/
def after (i : Instr) (s : State) : State :=
  match exec i s with
  | .next t => t
  | .fault _ | .refused _ => s

/-- The state after one step. -/
def stepped (s : State) : State :=
  match step s with
  | .next t => t
  | .fault _ | .refused _ => s

/-- The state with bus events to come. -/
def withBus (s : State) (evs : List (BitVec 10)) : State := { s with inputs := evs.map atBus }

/-- One input at a port, with its levels. -/
def atPort (e : PortEvent) (rg pg : Bool) : Input := ⟨e, .irq, .ready, rg, pg⟩

/-! ## Well-formedness -/

/-- `DEFAULT` meets rule R9, and its 7-bit address byte is the one the vectors use. -/
theorem test_default_wellFormed : defaultCfg.wellFormed = true := by decide

/-- `Defined` not in ascending order. -/
theorem test_wf_regs_ascending :
    { defaultCfg with regs := ⟨0x19, .rw, 0⟩ :: defaultRegs }.regsAscending = false := by decide

/-- `CONTROL` at the address of `STATUS`. -/
theorem test_wf_names_distinct :
    { defaultCfg with addr := { defaultAddrs with control := 0x02 } }.namesDistinct = false := by decide

/-- `WDT_STOP` at an address outside `Defined`. -/
theorem test_wf_names_defined :
    { defaultCfg with addr := { defaultAddrs with wdtStop := 0x40 } }.namesDefined = false := by decide

/-- `CONTROL` read-only, against rule R24. -/
theorem test_wf_names_class :
    { defaultCfg with regs := defaultRegs.map fun r : RegDef => if r.addr = 0x03 then { r with cls := .ro } else r }.namesDefined
      = false := by decide

/-- `Defined` without the address 0x00 (rule R9, decision D7). -/
theorem test_wf_zero_defined :
    { defaultCfg with regs := defaultRegs.tail }.zeroDefined = false ∧
    { defaultCfg with regs := defaultRegs.tail }.wellFormed = false := by decide

/-- `SECONDS_0` at 0xFD: `SECONDS_3` would wrap. 0xFC still fits. -/
theorem test_wf_seconds_fit :
    { defaultCfg with addr := { defaultAddrs with seconds0 := 0xFD } }.secondsFit = false ∧
    { defaultCfg with addr := { defaultAddrs with seconds0 := 0xFC } }.secondsFit = true := by decide

/-- Two `CONTROL` bits at one position; a mask of two bits; an empty mask. -/
theorem test_wf_bit_groups :
    { defaultCfg with controlLed1 := 0x04 }.bitGroupsOk = false ∧
    { defaultCfg with statusOpto := 0x06 }.bitGroupsOk = false ∧
    { defaultCfg with capRtc := 0x00 }.bitGroupsOk = false := by decide

/-- `BUS_START_W` with another device's address, with the read direction; `BUS_START_R` with the write direction;
`BUS_START_OTHER` with the slave's own address. -/
theorem test_wf_start_bytes :
    (Instr.busStartW 0x44).wellFormed defaultCfg = false ∧ (Instr.busStartW 0x43).wellFormed defaultCfg = false ∧
    (Instr.busStartR 0x42).wellFormed defaultCfg = false ∧ (Instr.busStartOther 0x43).wellFormed defaultCfg = false ∧
    (Instr.busStartW 0x42).wellFormed defaultCfg = true := by decide

/-- The decoder refuses a BUS_DEC word whose `own` bit is not that of its address byte. -/
theorem test_decode_refuses_mismatch :
    decode defaultCfg (.busDec 0x42 0xA0) = .error .startByteMismatch ∧
    decode defaultCfg (.busDec 0x40 0x42) = .error .startByteMismatch := by decide

/-! ## Decoding: a word of every operation -/

/-- STORE_OP, `{op[2:0], addr[7:0], data[31:0]}` (rule R69), field by field. -/
theorem test_decode_storeOp :
    decode defaultCfg (.storeOp (0b000#3 ++ 0b00010001#8 ++ 0#32)) = .ok (.get8 0x11) ∧
    decode defaultCfg (.storeOp (0b001#3 ++ 0b00000110#8 ++ 0xA5#32)) = .ok (.set8 0x06 0xA5) ∧
    decode defaultCfg (.storeOp (0b010#3 ++ 0b00000011#8 ++ 0x0C#32)) = .ok (.setMask 0x03 0x0C) ∧
    decode defaultCfg (.storeOp (0b011#3 ++ 0b00000011#8 ++ 0x05#32)) = .ok (.clearMask 0x03 0x05) ∧
    decode defaultCfg (.storeOp (0b100#3 ++ 0b00001001#8 ++ 0#32)) = .ok (.get32 0x09) ∧
    decode defaultCfg (.storeOp (0b101#3 ++ 0b00001001#8 ++ 0xDEADBEEF#32)) = .ok (.set32 0x09 0xDEADBEEF) := by
  decide

/-- The reserved codes (rule R72), V21 and V53 among them. -/
theorem test_decode_reserved :
    decode defaultCfg (.storeOp 0x60000000000) = .error .reservedStoreOp ∧
    decode defaultCfg (.storeOp 0x70000000000) = .error .reservedStoreOp ∧
    decode defaultCfg (.pwrEvt 0x302) = .error .reservedStartSource ∧
    decode defaultCfg (.pwrEvt 0x700) = .error .reservedPwrEvent := by decide

/-- INTERNAL: the index of rule R61 in bits 1:0, the operands above it as the model lays them. -/
theorem test_decode_internal :
    decode defaultCfg (.internal (0b00000000#8 ++ 0b00010111#8 ++ 0b00#2)) = .ok (.busRead8 0x17) ∧
    decode defaultCfg (.internal (0b10100101#8 ++ 0b00000110#8 ++ 0b01#2)) = .ok (.busWrite8 0x06 0xA5) ∧
    decode defaultCfg (.internal 0b10#18) = .ok .busEnable ∧
    decode defaultCfg (.internal 0b11#18) = .ok .busDisable := by decide

/-- BUS_DEC, `{bus_en, bstate[1:0], bev[1:0], own, dir}` (rule R78), bit by bit: the start events. -/
theorem test_decode_bus_start :
    decode defaultCfg (.busDec 0b0000010 0x42) = .ok .busOffIgn ∧
    decode defaultCfg (.busDec 0b1000010 0x42) = .ok (.busStartW 0x42) ∧
    decode defaultCfg (.busDec 0b1100011 0x43) = .ok (.busStartR 0x43) ∧
    decode defaultCfg (.busDec 0b1100000 0xA0) = .ok (.busStartOther 0xA0) := by decide

/-- BUS_DEC: the other events in the four states. -/
theorem test_decode_bus_bytes :
    decode defaultCfg (.busDec 0b1010100 0x05) = .ok (.busRxAddr 0x05) ∧
    decode defaultCfg (.busDec 0b1100100 0xEE) = .ok (.busRxData 0xEE) ∧
    decode defaultCfg (.busDec 0b1000100 0xFF) = .ok (.busRxIgnIdle 0xFF) ∧
    decode defaultCfg (.busDec 0b1110100 0x01) = .ok (.busRxIgnReading 0x01) ∧
    decode defaultCfg (.busDec 0b1111000 0x00) = .ok .busTxData ∧
    decode defaultCfg (.busDec 0b1011000 0x00) = .ok .busTxIgnUnaddressed ∧
    decode defaultCfg (.busDec 0b1101000 0x00) = .ok .busTxIgnWriting ∧
    decode defaultCfg (.busDec 0b1101100 0x00) = .ok .busStop := by decide

/-- STEP, `{pstate[2:0], rail_good, power_good}` (rule R68): the 32 rows of table 2.4, in its order. -/
theorem test_decode_step :
    ((List.range 32).map fun n => (decodeStep (BitVec.ofNat 5 n)).instr) =
      [.stepInitDown, .stepInitDown, .stepInitUp, .stepInitUp,
       .stepClearMaskNoPg, .stepClearMaskPg, .stepClearMaskNoPg, .stepClearMaskPg,
       .stepOffHold, .stepOffPg, .stepOffHold, .stepOffPg,
       .stepOffPgDrop, .stepOffPgHold, .stepOffPgDrop, .stepOffPgHold,
       .stepPonRetry, .stepPonRetry, .stepPonDone, .stepPonDone,
       .stepPoff, .stepPoff, .stepPoff, .stepPoff,
       .stepOnFail, .stepOnFail, .stepOnHold, .stepOnHold,
       .stepUnkDown, .stepUnkDown, .stepUnkUp, .stepUnkUp] := by decide

/-- PWR_EVT, `{pev[2:0], payload[7:0]}` (rule R70), field by field. -/
theorem test_decode_pwr :
    decode defaultCfg (.pwrEvt (0b000#3 ++ 0b00000000#8)) = .ok .step ∧
    decode defaultCfg (.pwrEvt (0b001#3 ++ 0b00000000#8)) = .ok .requestPowerDown ∧
    decode defaultCfg (.pwrEvt (0b010#3 ++ 0b00001000#8)) = .ok (.handleStartEvent 0x08) ∧
    decode defaultCfg (.pwrEvt (0b011#3 ++ 0b00000000#8)) = .ok .irqStartButton ∧
    decode defaultCfg (.pwrEvt (0b011#3 ++ 0b00000001#8)) = .ok .irqStartOpto ∧
    decode defaultCfg (.pwrEvt (0b011#3 ++ 0b00000011#8)) = .ok .irqStartTimeout ∧
    decode defaultCfg (.pwrEvt (0b100#3 ++ 0b00000000#8)) = .ok .mainIter ∧
    decode defaultCfg (.pwrEvt (0b101#3 ++ 0b00001000#8)) = .ok (.reset 0x08) ∧
    decode defaultCfg (.pwrEvt (0b110#3 ++ 0b00000000#8)) = .ok .wake := by decide

/-- The words of the opcode table in whole bytes: 48 bits, 16 bits, and 8 bits for three formats (log entry 16). -/
theorem test_table_words :
    decodeTableWord 48 0x20000000000 = some (.setMask 0x00 0x00) ∧ decodeTableWord 48 0x60000000000 = none ∧
    decodeTableWord 16 0x303 = some .irqStartTimeout ∧ decodeTableWord 16 0x302 = none ∧
    decodeTableWord 8 0x01 = some (.busWrite8 0x00 0x00) ∧ decodeTableWord 8 0x03 = some .busDisable ∧
    decodeTableWord 8 0x1E = some .stepUnkUp ∧ decodeTableWord 8 0x42 = some (.busStartW 0x42) ∧
    decodeTableWord 8 0x40 = some (.busStartOther 0xBC) ∧ decodeTableWord 8 0x78 = some .busTxData ∧
    decodeTableWord 2 0x02 = some .busEnable ∧ decodeTableWord 7 0x00 = some .busOffIgn :=
  ⟨rfl, rfl, rfl, rfl, rfl, rfl, rfl, rfl, rfl, rfl, rfl, rfl⟩

/-- A placed word is what the next step runs: `SET8` at `RESTART_HOURS` (V4). -/
theorem test_placed_store : readByte (stepped (State.reset.withFetchWord 43 0x106000000A5)) 0x06 = 0xA5 := by decide

/-- A placed word is what the next step runs: the row of word 0x14, and a data byte received in `Writing` at 0x00. -/
theorem test_placed_row_and_byte :
    (stepped (State.reset.withFetchWord 8 0x14)).pstate = .clearMask ∧
    (stepped (State.reset.withFetchWord 8 0x64)).ptr = 0x01 := ⟨rfl, rfl⟩

/-! ## Register store -/

/-- V1, V2, V3. -/
theorem test_get8 :
    exec (.get8 0x11) State.reset = .next { State.reset with answer := ⟨none, none, some 0x69⟩ } ∧
    exec (.get8 0x19) State.reset = .next { State.reset with answer := ⟨none, none, some 0x00⟩ } ∧
    exec (.get8 0xFF) State.reset = .next { State.reset with answer := ⟨none, none, some 0x00⟩ } :=
  ⟨rfl, rfl, rfl⟩

/-- V4, V6: a `rw` and an `ro` register are both written. -/
theorem test_set8 :
    readByte (after (.set8 0x06 0xA5) State.reset) 0x06 = 0xA5 ∧
    readByte (after (.set8 0x05 0x0F) State.reset) 0x05 = 0x0F := by decide

/-- V5: an unknown address; and the canonical form: writing the reset value back lists nothing. -/
theorem test_set8_unlisted :
    (after (.set8 0x19 0x01) State.reset).reg = [] ∧
    (after (.set8 0x04 0x0F) (withRegs [(0x04, 0x33)])).reg = [] := by decide

/-- V8, V10, V11. -/
theorem test_setMask :
    readByte (after (.setMask 0x03 0x0C) (withRegs [(0x03, 0x01)])) 0x03 = 0x0D ∧
    readByte (after (.setMask 0x03 0xFF) (withRegs [(0x03, 0x0D)])) 0x03 = 0xFF ∧
    (after (.setMask 0x40 0xFF) State.reset).reg = [] := by decide

/-- V12, V13, V14. -/
theorem test_clearMask :
    readByte (after (.clearMask 0x03 0x05) (withRegs [(0x03, 0x0D)])) 0x03 = 0x08 ∧
    readByte (after (.clearMask 0x03 0xFF) (withRegs [(0x03, 0x0D)])) 0x03 = 0x00 ∧
    readByte (after (.clearMask 0x03 0x02) (withRegs [(0x03, 0x0D)])) 0x03 = 0x0D := by decide

/-- V16, V17, V20. -/
theorem test_get32 :
    (after (.get32 0x09) (withRegs [(0x09, 0xEF), (0x0A, 0xBE), (0x0B, 0xAD), (0x0C, 0xDE)])).answer.data
      = some 0xDEADBEEF ∧
    (after (.get32 0x18) (withRegs [(0x18, 0x07)])).answer.data = some 0x00000007 ∧
    (after (.get32 0x0B) (withRegs [(0x0B, 0xAD), (0x0C, 0xDE)])).answer.data = some 0x000FDEAD := by decide

/-- V15, V18, V19: the cells listed after the store. -/
theorem test_set32 :
    (after (.set32 0x09 0xDEADBEEF) State.reset).reg = [(0x09, 0xEF), (0x0A, 0xBE), (0x0B, 0xAD), (0x0C, 0xDE)] ∧
    (after (.set32 0x17 0x44332211) State.reset).reg = [(0x17, 0x11), (0x18, 0x22)] ∧
    (after (.set32 0xFE 0xAABBCCDD) State.reset).reg = [] := by decide

/-- V26 and V27: the bus port and a read-only register under the two policies. -/
theorem test_busWrite8 :
    readByte (after (.busWrite8 0x05 0xFF) (withRegs [(0x05, 0x01)])) 0x05 = 0x01 ∧
    readByte (after (.busWrite8 0x05 0xFF)
      { withRegs [(0x05, 0x01)] with cfg := { defaultCfg with roBusWrite := .store } }) 0x05 = 0xFF ∧
    readByte (after (.busWrite8 0x06 0x1E) State.reset) 0x06 = 0x1E := by decide

/-- Rule R57, tests 2 and 3 at the ends of the ranges of rule R33. -/
theorem test_accept_range :
    let c := { defaultCfg with rangeCheck := .reject }
    accept c 0x17 0x03 = true ∧ accept c 0x17 0x04 = false ∧
    accept c 0x18 0x02 = false ∧ accept c 0x18 0x03 = true ∧ accept c 0x18 0x0A = true ∧ accept c 0x18 0x0B = false ∧
    accept c 0x14 0x00 = false ∧ accept c 0x14 0x01 = true := by decide

/-- Rule R57, test 3: with the gate on and only the clock's capability there. -/
theorem test_accept_capability :
    let c := { defaultCfg with capGate := .reject, capabilityVal := 0x01 }
    accept c 0x09 0x55 = true ∧ accept c 0x15 0x55 = false ∧ accept c 0x17 0x01 = false ∧ accept c 0x03 0x55 = true ∧
    accept { defaultCfg with capGate := .reject, minChargeStep := 0x01 } 0x17 0x01 = false := by decide

/-- Rule R87. -/
theorem test_busRead8 : (after (.busRead8 0x11) State.reset).answer.data = some 0x69 := by decide

/-! ## The bus slave -/

/-- S9, row a1: an own start keeps the pointer, acknowledges and wakes. -/
theorem test_busStart_own :
    let s := { busUp [] with ptr := 0x05, bstate := .writing, sleeping := true }
    after (.busStartW 0x42) s
      = { s with bstate := .addressSelect, sleeping := false, answer := ⟨some true, none, none⟩ } ∧
    after (.busStartR 0x43) s
      = { s with bstate := .reading, sleeping := false, answer := ⟨some true, none, none⟩ } := by decide

/-- V34, and V30's stop. -/
theorem test_transaction_ends :
    let s := { busUp [] with ptr := 0x07, bstate := .writing }
    after (.busStartOther 0xA0) s = { s with bstate := .idle, ptr := 0x00, answer := ⟨some false, none, none⟩ } ∧
    after .busStop s = { s with bstate := .idle, ptr := 0x00, answer := .none } := by decide

/-- S9, row a2. -/
theorem test_busRxAddr :
    let t := after (.busRxAddr 0x05) { busUp [] with bstate := .addressSelect }
    t.bstate = .writing ∧ t.ptr = 0x05 ∧ t.answer.ack = some true := by decide

/-- V24: at 0xC8 the byte is dropped and the pointer wraps; at `MCUSR` it is dropped and the pointer advances. -/
theorem test_busRxData :
    let s := { busUp [] with bstate := .writing, ptr := 0xC8 }
    let t := after (.busRxData 0xAA) s
    let u := after (.busRxData 0xBB) t
    t.ptr = 0x00 ∧ t.reg = [] ∧ u.ptr = 0x01 ∧ u.reg = [] ∧ u.answer.ack = some true ∧
    readByte (after (.busRxData 0x1E) { s with ptr := 0x06 }) 0x06 = 0x1E := by decide

/-- V23, one byte: the register at 0x18 is sent and the pointer wraps. -/
theorem test_busTxData :
    let t := after .busTxData { busUp [(0x18, 0x05)] with bstate := .reading, ptr := 0x18 }
    t.answer.txByte = some 0x05 ∧ t.ptr = 0x00 ∧ t.bstate = .reading := ⟨rfl, rfl, rfl⟩

/-- V35, and a byte received in `Reading`: no acknowledge, nothing changes. -/
theorem test_busRxIgn :
    (after (.busRxIgnIdle 0xFF) (busUp [])) = { busUp [] with answer := ⟨some false, none, none⟩ } ∧
    (after (.busRxIgnReading 0xFF) { busUp [] with bstate := .reading, ptr := 0x06 }).ptr = 0x06 := by decide

/-- V36: nothing changes; of the byte the master sees nothing is said. -/
theorem test_busTxIgn :
    let s := { busUp [] with bstate := .writing, ptr := 0x09 }
    { after .busTxIgnWriting s with answer := s.answer, draws := s.draws } = s ∧
    { after .busTxIgnUnaddressed (busUp []) with answer := .none, draws := 0 } = busUp [] := ⟨rfl, rfl⟩

/-- V37: no acknowledge and no wake. -/
theorem test_busOffIgn :
    let t := after .busOffIgn { State.reset with sleeping := true }
    t.answer.ack = some false ∧ t.sleeping = true ∧ t.reg = [] := ⟨rfl, rfl, rfl⟩

/-- Rules R100 and R101 from the middle of a read. -/
theorem test_bus_enable_disable :
    let s := { busUp [] with bstate := .reading, ptr := 0x0B }
    after .busDisable s = { s with busEn := false, bstate := .idle, ptr := 0x00, answer := .none } ∧
    after .busEnable s = { s with bstate := .idle, ptr := 0x00, answer := .none } := by decide

/-! ## The rows of the power controller -/

/-- Words 00, 02, 1C, 1E of table 2.4. -/
theorem test_init_unknown_rows :
    (after .stepInitDown (powered .init 0 [])).pstate = .poweringOff ∧
    (after .stepInitUp (powered .init 0 [])).pstate = .poweringOn ∧
    (after .stepUnkDown (powered .unknown 0 [])).pstate = .poweringOff ∧
    (after .stepUnkUp (powered .unknown 0 [])).pstate = .poweringOn := by decide

/-- V57 and V59. -/
theorem test_clearMask_rows :
    let t := after .stepClearMaskPg (powered .clearMask 0 [(0x05, 0x01), (0x08, 30)])
    t.pstate = .offPowerGood ∧ t.irqStart = 0xF ∧ t.trace = [.armCountdown 0 0 30] ∧ readByte t 0x05 = 0x00 ∧
    (after .stepClearMaskNoPg (powered .clearMask 0 [(0x04, 0xF3)])).irqStart = 0x3 ∧
    (after .stepClearMaskNoPg (powered .clearMask 0 [(0x04, 0xF3)])).pstate = .off := by decide

/-- V61 and V62. -/
theorem test_off_row :
    (after .stepOffPg (powered .off 0xF [])).pstate = .poweringOn ∧
    readByte (after .stepOffPg (powered .off 0xF [])) 0x05 = 0x04 ∧
    (after .stepOffPg (powered .off 3 [(0x04, 0x03)])).pstate = .offPowerGood ∧
    readByte (after .stepOffPg (powered .off 3 [(0x04, 0x03)])) 0x05 = 0x00 := by decide

/-- S6, S7 (first step) and the hold rows. -/
theorem test_drop_fail_hold_rows :
    (after .stepOffPgDrop (powered .offPowerGood 0xF [])).pstate = .off ∧
    after .stepOnFail (busUp []) = { busUp [] with pstate := .poweringOff } ∧
    after .stepOffHold (powered .off 0xF []) = powered .off 0xF [] ∧
    after .stepOffPgHold (powered .offPowerGood 0xF []) = powered .offPowerGood 0xF [] ∧
    after .stepOnHold (busUp []) = busUp [] := by decide

/-- S8, one step of V63, and V64's second operation. -/
theorem test_powering_rows :
    after .stepPonDone { powered .poweringOn 0xF [] with railCmd := true } = busUp [] ∧
    (after .stepPonRetry (powered .poweringOn 0xF [])).trace = [.railOn] ∧
    (after .stepPonRetry (powered .poweringOn 0xF [])).railCmd = true ∧
    after .stepPoff { busUp [] with pstate := .poweringOff, bstate := .reading, ptr := 0x0B }
      = { State.reset with pstate := .clearMask, trace := [.railOff] } := by decide

/-- STEP takes the row of the state and the levels: S7, third step, and S6. -/
theorem test_step :
    (after .step (powered .clearMask 0 [(0x05, 0x01)])).pstate = .off ∧
    readByte (after .step (powered .clearMask 0 [(0x05, 0x01)])) 0x05 = 0x00 ∧
    (after .step { powered .offPowerGood 0xF [] with railGood := true }).pstate = .off := by decide

/-! ## The events of the power controller -/

/-- V54 and V55. -/
theorem test_requestPowerDown :
    after .requestPowerDown (busUp []) = { busUp [] with pstate := .poweringOff } ∧
    after .requestPowerDown (powered .poweringOn 0xF []) = powered .poweringOn 0xF [] := by decide

/-- V46 (the whole byte is OR'ed) and V42 (not enabled). -/
theorem test_handleStartEvent :
    let t := after (.handleStartEvent 0x03) (powered .off 2 [(0x04, 0x02)])
    t.pstate = .poweringOn ∧ readByte t 0x05 = 0x03 ∧
    after (.handleStartEvent 0x01) (powered .off 2 [(0x04, 0x02)]) = powered .off 2 [(0x04, 0x02)] := by decide

/-- V44, V45: the wrong state. -/
theorem test_handleStartEvent_wrong_state :
    after (.handleStartEvent 0x02) (powered .on 0 [(0x05, 0x01)]) = powered .on 0 [(0x05, 0x01)] ∧
    after (.handleStartEvent 0x02) (powered .poweringOn 0xF [(0x05, 0x01)])
      = powered .poweringOn 0xF [(0x05, 0x01)] := by decide

/-- V48 and V49. -/
theorem test_irqStartButton :
    let s := { powered .off 1 [(0x04, 0x01)] with sleeping := true }
    let t := after .irqStartButton s
    t.pstate = .poweringOn ∧ readByte t 0x05 = 0x01 ∧ t.sleeping = false ∧
    after .irqStartButton { s with irqStart := 0 } = { s with irqStart := 0 } := by decide

/-- V50. -/
theorem test_irqStartOpto :
    let t := after .irqStartOpto (powered .offPowerGood 0xF [])
    t.pstate = .poweringOn ∧ readByte t 0x05 = 0x02 := by decide

/-- V51, and V52: delivered, but refused by the live `START_ENABLE`. -/
theorem test_irqStartTimeout :
    readByte (after .irqStartTimeout (powered .off 8 [(0x04, 0x08)])) 0x05 = 0x08 ∧
    after .irqStartTimeout { powered .off 0xF [(0x04, 0x07)] with sleeping := true }
      = powered .off 0xF [(0x04, 0x07)] := by decide

/-- V56. -/
theorem test_wake : after .wake { busUp [] with sleeping := true } = busUp [] := by decide

/-- P5, row 1: the cause, `START_ENABLE` at its image, the trace empty. -/
theorem test_reset :
    let t := after (.reset 0x08) { busUp [(0x05, 0x01), (0x04, 0x02)] with trace := [.wdtKick] }
    readByte t 0x00 = 0x08 ∧ readByte t 0x04 = 0x0F ∧ readByte t 0x05 = 0x00 ∧ t.trace = [] ∧ t.pstate = .init ∧
    t.busEn = false := ⟨rfl, rfl, rfl, rfl, rfl, rfl⟩

/-- Rule R38 at the registers with a value of their own; `reset(01)` of P1 lists nothing. -/
theorem test_reset_values :
    readByte State.reset 0x00 = 0x01 ∧ readByte State.reset 0x04 = 0x0F ∧ readByte State.reset 0x0D = 0x0F ∧
    readByte State.reset 0x11 = 0x69 ∧ readByte State.reset 0x16 = 0x21 ∧ readByte State.reset 0x18 = 0x00 ∧
    (after (.reset 0x01) State.reset).reg = [] := ⟨rfl, rfl, rfl, rfl, rfl, rfl, rfl⟩

/-- P1, row 5, and row 9: in `On` the loop does not sleep. -/
theorem test_mainIter :
    (after .mainIter (powered .clearMask 0 [])).trace = [.armCountdown 0 0 0, .wdtKick, .sleep] ∧
    (after .mainIter (powered .clearMask 0 [])).sleeping = true ∧
    (after .mainIter { powered .poweringOn 0xF [] with railGood := true }).trace = [.wdtKick] ∧
    (after .mainIter { powered .poweringOn 0xF [] with railGood := true }).sleeping = false := by decide

/-- Rule R132: a start request of the button between the heartbeat and the suspend test finds the machine in `Off` and
awake, and the suspend test then reads the `PoweringOn` it left; a power-down request there makes the loop suspend. -/
theorem test_input_before_suspend_test :
    let at_ := fun e => { atPort e true false with slot := MainPhase.suspendDue }
    let s := { powered .off 0x1 [] with inputs := [atPort (.pwr 0x400) false false, at_ (.pwr 0x300)] }
    let u := { busUp [] with inputs := [atPort (.pwr 0x400) true false, at_ (.pwr 0x100)] }
    (stepped s).trace = [.wdtKick] ∧ (stepped (stepped s)).pstate = .poweringOn ∧
    (stepped (stepped (stepped s))).trace = [.wdtKick, .sleep] ∧
    (stepped (stepped u)).pstate = .poweringOff ∧ (stepped (stepped (stepped u))).sleeping = true :=
  ⟨rfl, rfl, rfl, rfl, rfl⟩

/-- Rules R145 and R150: a reset between the heartbeat and the suspend test ends the iteration there. -/
theorem test_reset_before_suspend_test :
    let s := { busUp [] with
      inputs := [atPort (.pwr 0x400) true false, { atPort (.pwr 0x508) true false with slot := .suspendDue }] }
    (stepped (stepped s)).mainPhase = .ready ∧ (stepped (stepped s)).pstate = .init ∧
    (stepped (stepped s)).sleeping = false ∧ readByte (stepped (stepped s)) 0x00 = 0x08 := ⟨rfl, rfl, rfl, rfl⟩

/-- S9 over the schedule: the restart, and the stop between write and read. -/
theorem test_select_and_read :
    (stepped (stepped (stepped (stepped
      (withBus (busUp [(0x05, 0x01), (0x00, 0x08)]) [0x042, 0x105, 0x043, 0x200]))))).answer.txByte = some 0x01 ∧
    (stepped (stepped (stepped (stepped (stepped
      (withBus (busUp [(0x05, 0x01), (0x00, 0x08)]) [0x042, 0x105, 0x300, 0x043, 0x200])))))).answer.txByte
      = some 0x08 := by decide

/-- R76 under `DEFAULT`, `CONTROL` holding 0x04: read of `CONTROL`, then the write-back with 0x02 ORed in. -/
theorem test_enter_bootloader_events :
    enterBootloaderAlone (busUp [(0x03, 0x04)])
      = [0x042, 0x103, 0x043, 0x200, 0x300, 0x042, 0x103, 0x106, 0x300] := by decide

/-- R76: the fourth event delivers `CONTROL`, the eighth stores it with the bootloader request. -/
theorem test_enter_bootloader_runs :
    let start := busUp [(0x03, 0x04)]
    let evs := enterBootloaderAlone start
    (stepped (stepped (stepped (stepped (withBus start evs))))).answer.txByte = some 0x04 ∧
    readReg (stepped (stepped (stepped (withBus start (evs.drop 5))))) .control = 0x06 := by decide

/-- R58: the same store word is a move of `FW_ENV` in context `main` only; `START_REASON` is not its to write. -/
theorem test_fwEnv_moves :
    Input.isFwEnvMove defaultCfg ⟨.store 0x50900000001, .main, .ready, false, false⟩ = true ∧
    Input.isFwEnvMove defaultCfg ⟨.store 0x50900000001, .irq, .ready, false, false⟩ = false ∧
    Input.isFwEnvMove defaultCfg ⟨.store 0x1050000000F, .main, .ready, false, false⟩ = false ∧
    Input.isFwEnvMove defaultCfg ⟨.store 0x40200000000, .main, .ready, false, false⟩ = true := by decide

/-- R58: any operation on `STATUS`, but no `set32` whose upper bytes would reach `START_REASON`. -/
theorem test_fwEnv_status :
    fwEnvAllows defaultCfg (.set8 0x02 0xFF) = true ∧ fwEnvAllows defaultCfg (.set32 0x02 0) = false ∧
    fwEnvAllows { defaultCfg with addr := { defaultCfg.addr with status := 0x18 } } (.set32 0x18 0) = true := by decide

/-- V60. -/
theorem test_restartTotal : restartTotal 0xFF 0xFF 0xFF = 933555 := by decide

/-! ## Witnesses: concrete cases that meet the hypotheses of the statements, clause by clause -/

/-- The clauses of `Get8…`, `Set8…`, `MaskOperations…`: `LAST` is in `Defined`, the next address is not. -/
theorem witness_defined_and_unknown :
    State.reset.cfg.defines (0x18#8).toNat = true ∧ State.reset.cfg.defines (0x19#8).toNat = false ∧
    (0x17 : Nat) ≠ (0x18#8).toNat := by decide

/-- The clauses of `Get32…` and `Set32…`: all four bytes there at 0x15, only the first at 0x18, none past 0xFF. -/
theorem witness_wide_access :
    (∀ i, i < 4 → State.reset.cfg.defines ((0x15#8).toNat + i) = true) ∧
    State.reset.cfg.defines ((0x18#8).toNat + 0) = true ∧ State.reset.cfg.defines ((0x18#8).toNat + 1) = false ∧
    State.reset.cfg.defines 0x100 = false ∧
    ∀ i, i < 4 → State.reset.cfg.defines 0x19 = true → 0x19 ≠ (0x18#8).toNat + i := by decide

theorem witness_CanonicalRegisterFileIsUnique :
    ∃ (c : Cfg) (m k : Memory), m ≠ [] ∧ m.wf c = true ∧ k.wf c = true ∧
      ∀ n, m.read (unlistedByte c) n = k.read (unlistedByte c) n :=
  ⟨defaultCfg, [(0x03, 0x01)], [(0x03, 0x01)], by decide, by decide, by decide, fun _ => rfl⟩

/-- The clauses of `BusWrite8…`: accepted; unknown; read-only. -/
theorem witness_BusWrite8StoresAcceptedByte :
    (State.reset.cfg.defines 0x18 = true ∧ accept State.reset.cfg 0x18 0xFF = true) ∧
    (State.reset.cfg.defines 0x19 = false ∧ accept State.reset.cfg 0x19 0xFF = true) ∧
    (State.reset.cfg.defines 0x05 = true ∧ accept State.reset.cfg 0x05 0xFF = false) := by decide

/-- `AcceptTests…` under the three policies that reject; the boundary values are in `test_accept_range`. -/
theorem witness_AcceptTestsClassRangeAndCapability :
    { defaultCfg with rangeCheck := .reject, capGate := .reject }.wellFormed = true := by decide

/-- `RxAddr…` and `RxData…`: the selecting states; `RxData…`: a pointer at `LAST`, past it, and at an `ro` register. -/
theorem witness_received_bytes :
    let a := { busUp [] with bstate := .addressSelect }
    let w := { busUp [] with bstate := .writing, ptr := 0x18 }
    (a.busEn = true ∧ a.bstate = .addressSelect) ∧ (w.busEn = true ∧ w.bstate = .writing) ∧
    (w.cfg.defines w.ptr.toNat = true ∧ accept w.cfg w.ptr 0x00 = true) ∧
    w.cfg.defines (0x19#8).toNat = false ∧ accept w.cfg 0x05 0x00 = false := by decide

/-- The clauses of `PointerIncrementWrapsPastLast`: at `LAST`, above it, just below it. -/
theorem witness_PointerIncrementWrapsPastLast :
    defaultCfg.regs ≠ [] ∧ lastAddr defaultCfg = 0x18 ∧
    (lastAddr defaultCfg).toNat ≤ (0x18#8).toNat ∧ (lastAddr defaultCfg).toNat ≤ (0xC8#8).toNat ∧
    (0x17#8).toNat < (lastAddr defaultCfg).toNat := by decide

theorem witness_RestartReadsSelectedRegister :
    ∃ (s : State) (ra : Addr) (rest : List Input), s.busEn = true ∧ s.mainPhase = .ready ∧
      s.inputs = [evStartW s.cfg, evRx ra, evStartR s.cfg, evTx].map atBus ++ rest :=
  ⟨withBus (busUp []) [0x042, 0x105, 0x043, 0x200], 0x05, [], rfl, rfl, by decide⟩

theorem witness_StopThenReadReadsAddressZero :
    ∃ (s : State) (ra : Addr) (rest : List Input), s.busEn = true ∧ s.mainPhase = .ready ∧
      s.inputs = [evStartW s.cfg, evRx ra, evStop, evStartR s.cfg, evTx].map atBus ++ rest :=
  ⟨withBus (busUp []) [0x042, 0x105, 0x300, 0x043, 0x200], 0x05, [], rfl, rfl, by decide⟩

/-- V38: 25 byte requests. -/
theorem witness_StreamedReadWalksTheRegisters :
    ∃ (n : Nat) (s : State) (rest : List Input), s.busEn = true ∧ s.mainPhase = .ready ∧ s.bstate = .reading ∧
      s.inputs = List.replicate (n + 1) (atBus evTx) ++ rest :=
  ⟨24, { busUp [] with bstate := .reading, inputs := List.replicate 25 (atBus evTx) }, [], rfl, rfl, rfl, rfl⟩

/-- P2, rows 1 to 3: the words of the trace are those of write-RTC; with the gate on, `CAP_RTC` is there. -/
theorem witness_WriteRtcOverBusSetsTheClock :
    ∃ (s : State) (time : Word32) (rest : List Input),
      s.cfg.wellFormed = true ∧ (s.cfg.capGate = .off ∨ s.cfg.capabilityVal &&& s.cfg.capRtc ≠ 0) ∧
      s.busEn = true ∧ s.mainPhase = .ready ∧ s.inputs = (writeRtc s.cfg time).map atBus ++ rest :=
  ⟨{ withBus (busUp []) [0x042, 0x109, 0x1EF, 0x1BE, 0x1AD, 0x1DE, 0x300] with
      cfg := { defaultCfg with capGate := .reject } }, 0xDEADBEEF, [],
    by decide, by decide, rfl, rfl, by decide⟩

/-- Both ways a bus event is served: between two iterations, and between two parts of one. -/
theorem witness_BusMasterCannotTouchSequencer :
    (∃ (s : State) (inp : Input) (rest : List Input) (w : BitVec 10),
      s.inputs = inp :: rest ∧ inp.event = .bus w ∧ midIteration s = false ∧
      s.cfg.roBusWrite = .ignore ∧ s.cfg.classOf 0x05 = some .ro) ∧
    ∃ (s : State) (inp : Input) (rest : List Input) (w : BitVec 10),
      s.inputs = inp :: rest ∧ inp.event = .bus w ∧ midIteration s = true ∧ due s.mainPhase inp = true :=
  ⟨⟨withBus (busUp []) [0x042], atBus 0x042, [], 0x042, rfl, rfl, rfl, rfl, by decide⟩,
    ⟨{ busUp [] with mainPhase := .suspendDue, inputs := [{ atBus 0x042 with slot := .suspendDue }] },
      { atBus 0x042 with slot := .suspendDue }, [], 0x042, rfl, rfl, rfl, by decide⟩⟩

/-- The selecting clauses of `InitAndUnknown…`, `DropAndFail…` and `PoweringOnRetries…`, at both levels. -/
theorem witness_selected_rows :
    (0x03#5 &&& 0x1E = 0x02 ∧ 0x01#5 &&& 0x1E = 0x00 ∧ 0x1F#5 &&& 0x1E = 0x1E ∧ 0x1D#5 &&& 0x1E = 0x1C) ∧
    (0x0E#5 &&& 0x1D = 0x0C ∧ 0x19#5 &&& 0x1E = 0x18 ∧ 0x11#5 &&& 0x1E = 0x10) ∧
    ((powered .init 0 []).pstate = .init ∧ (powered .unknown 0 []).pstate = .unknown) ∧
    ((powered .offPowerGood 0 []).pstate = .offPowerGood ∧ (powered .offPowerGood 0 []).powerGood = false) ∧
    ((busUp []).pstate = .on ∧ (busUp []).railGood = false) ∧
    ((powered .poweringOn 0 []).pstate = .poweringOn ∧ (powered .poweringOn 0 []).railGood = false) := by decide

/-- The two clauses of `OffRow…`: `START_ENABLE` with and without its power-good bit. -/
theorem witness_OffRowWithPowerGoodRequestsStart :
    readReg (powered .off 0xF []) .startEnable &&& 0x04 ≠ 0 ∧ (powered .off 0xF []).cfg.defines 0x05 = true ∧
    readReg (powered .off 0x3 [(0x04, 0x03)]) .startEnable &&& 0x04 = 0 := by decide

/-- The branches of `StepIdempotentOnSelfLoops`: each self-loop, and a row that is none. -/
theorem witness_StepIdempotentOnSelfLoops :
    ((powered .off 0 []).pstate = .off ∧ (powered .off 0 []).powerGood = false) ∧
    (let s := { powered .offPowerGood 0 [] with powerGood := true }; s.pstate = .offPowerGood ∧ s.powerGood = true) ∧
    (let s := { busUp [] with railGood := true }; s.pstate = .on ∧ s.railGood = true) ∧
    ((powered .poweringOn 0 []).pstate = .poweringOn ∧ (powered .poweringOn 0 []).railGood = false) ∧
    (powered .clearMask 0 []).pstate = .clearMask := by decide

/-- Two states that differ in `CONTROL` alone. -/
theorem witness_StepReadsOnlyStartAndRestartRegisters :
    ∃ s s' : State, s ≠ s' ∧ s' = { s with reg := s'.reg } ∧
      ∀ r ∈ [RegName.startEnable, .startReason, .restartHours, .restartMinutes, .restartSeconds],
        readReg s' r = readReg s r :=
  ⟨powered .clearMask 0 [], powered .clearMask 0 [(0x03, 0x01)], by decide, by decide, by decide⟩

/-- The clauses of `StartEvent…`: admitted from each of the two states, refused for the reason, for the state. -/
theorem witness_StartEventNeedsStateAndEnabledReason :
    ((powered .off 0 []).pstate = .off ∧ 0x01 &&& readReg (powered .off 0 []) .startEnable ≠ 0) ∧
    ((powered .offPowerGood 0 []).pstate = .offPowerGood ∧
      0x08 &&& readReg (powered .offPowerGood 0 []) .startEnable ≠ 0) ∧
    (0x10 &&& readReg (powered .off 0 []) .startEnable = 0) ∧
    ¬ ((busUp []).pstate = .off ∨ (busUp []).pstate = .offPowerGood) := by decide

theorem witness_SecondStartEventIsInert :
    ∃ (s t : State) (reason : Byte), exec (.handleStartEvent reason) s = .next t ∧ t.pstate ≠ s.pstate :=
  ⟨powered .off 0 [], _, 0x01, rfl, by decide⟩

/-- The clauses of `StartRequests…` and `RequestPowerDown…`. -/
theorem witness_requests :
    ((powered .off 0x1 []).irqStart.getLsbD 0 = true ∧ (powered .off 0xE []).irqStart.getLsbD 0 = false) ∧
    ((powered .off 0x2 []).irqStart.getLsbD 1 = true ∧ (powered .off 0xD []).irqStart.getLsbD 1 = false) ∧
    ((powered .off 0x8 []).irqStart.getLsbD 3 = true ∧ (powered .off 0x7 []).irqStart.getLsbD 3 = false) ∧
    (busUp []).pstate = .on ∧ (powered .off 0 []).pstate ≠ .on := by decide

/-- `Reset…`: the configuration, and a register of each kind of its last clause. -/
theorem witness_ResetGivesEveryResetValue :
    (busUp []).cfg.wellFormed = true ∧ (busUp []).cfg.regDef? 0x04 = some ⟨0x04, .rw, 0x0F⟩ ∧
    ∀ r : RegName, r.cls = .ro → 0x04 ≠ ((busUp []).cfg.addrOf r).toNat := by
  refine ⟨by decide, by decide, fun r h => ?_⟩
  cases r <;> first | decide | exact absurd h (by decide)

theorem witness_MainIterationStepsKicksSuspends :
    ∃ s : State, s.sleeping = false ∧ s.mainPhase = .ready ∧ dueAt .kickDue s = false ∧ dueAt .suspendDue s = false :=
  ⟨State.reset, rfl, rfl, rfl, rfl⟩

/-- An input that falls at each place inside an iteration, none there, and `MAIN_ITER` before it. -/
theorem witness_MainIterationYieldsBetweenParts :
    let k := { busUp [] with inputs := [{ atBus 0x042 with slot := .kickDue }] }
    let p := { busUp [] with inputs := [{ atBus 0x042 with slot := .suspendDue }] }
    (k.sleeping = false ∧ k.mainPhase = .ready ∧ dueAt .kickDue k = true) ∧
    (p.sleeping = false ∧ p.mainPhase = .ready ∧ dueAt .kickDue p = false ∧ dueAt .suspendDue p = true) ∧
    dueAt .suspendDue { p with mainPhase := .kickDue } = true ∧
    dueAt .suspendDue { k with mainPhase := .kickDue } = false ∧
    { p with mainPhase := .suspendDue }.mainPhase = .suspendDue ∧
    decode p.cfg (eventWord p (atPort (.pwr 0x400) true false).event) = .ok .mainIter ∧
    due .kickDue { atBus 0x042 with slot := .kickDue } = true ∧
    due .suspendDue { atBus 0x042 with slot := .suspendDue } = true := by decide

/-- Suspended, with no input and with a firmware operation of context `main`. -/
theorem witness_SuspendedMainLoopDoesNotMove :
    (∃ s : State, s.sleeping = true ∧ s.inputs = []) ∧
    ∃ (s : State) (inp : Input) (rest : List Input) (i : Instr),
      s.sleeping = true ∧ s.inputs = inp :: rest ∧ decode s.cfg (eventWord s inp.event) = .ok i ∧
      runsInMain inp.ctx i = true :=
  ⟨⟨{ State.reset with sleeping := true }, rfl, rfl⟩,
    ⟨{ State.reset with sleeping := true, inputs := [⟨.store 0x106000000A5, .main, .ready, false, false⟩] },
      ⟨.store 0x106000000A5, .main, .ready, false, false⟩, [], .set8 0x06 0xA5, rfl, rfl, by decide, rfl⟩⟩

theorem witness_MainLoopRunsByItself :
    (∃ s : State, s.inputs = [] ∧ s.sleeping = false ∧ s.mainPhase = .ready) ∧
    ∃ s : State, s.inputs = [] ∧ s.sleeping = false ∧ s.mainPhase ≠ .ready :=
  ⟨⟨State.reset, rfl, rfl, rfl⟩, ⟨{ State.reset with mainPhase := .suspendDue }, rfl, rfl, by decide⟩⟩

/-- A tick while suspended, and an operation of context `main` while not. -/
theorem witness_StepRunsDecodedOperation :
    (∃ (s : State) (inp : Input) (rest : List Input) (i : Instr),
      s.inputs = inp :: rest ∧ midIteration s = false ∧ decode s.cfg (eventWord s inp.event) = .ok i ∧
      s.sleeping = true ∧ runsInMain inp.ctx i = false) ∧
    ∃ (s : State) (inp : Input) (rest : List Input) (i : Instr),
      s.inputs = inp :: rest ∧ midIteration s = false ∧ decode s.cfg (eventWord s inp.event) = .ok i ∧
      s.sleeping = false ∧ runsInMain inp.ctx i = true :=
  ⟨⟨{ State.reset with sleeping := true, inputs := [atPort (.pwr 0x600) false false] },
      atPort (.pwr 0x600) false false, [], .wake, rfl, rfl, by decide, rfl, rfl⟩,
    ⟨{ State.reset with inputs := [atPort (.pwr 0x400) true false] }, atPort (.pwr 0x400) true false, [], .mainIter,
      rfl, rfl, by decide, rfl, rfl⟩⟩

/-- `ReservedCodes…`: V21 with both codes, the reserved event code, V53. -/
theorem witness_ReservedCodesDoNothing :
    ∀ e ∈ [PortEvent.store 0x60600000000, .store 0x70000000000, .pwr 0x700, .pwr 0x302],
      ((∃ (op : BitVec 3) (a : Addr) (d : Word32), (op = 6 ∨ op = 7) ∧ e = .store (op ++ a ++ d)) ∨
        (∃ p : Byte, e = .pwr (7#3 ++ p)) ∨ ∃ p : Byte, p.extractLsb' 0 2 = 2 ∧ e = .pwr (3#3 ++ p)) ∧
      midIteration { State.reset with inputs := [atPort e false false] } = false := by
  intro e he
  simp only [List.mem_cons, List.not_mem_nil, or_false] at he
  rcases he with rfl | rfl | rfl | rfl
  · exact ⟨.inl ⟨6, 0x06, 0, .inl rfl, by decide⟩, rfl⟩
  · exact ⟨.inl ⟨7, 0x00, 0, .inr rfl, by decide⟩, rfl⟩
  · exact ⟨.inr (.inl ⟨0x00, by decide⟩), rfl⟩
  · exact ⟨.inr (.inr ⟨0x02, by decide, by decide⟩), rfl⟩

/-- A start request that wakes. -/
theorem witness_OnlyDeliveredInterruptsWake :
    ∃ s t : State, s.sleeping = true ∧ s.inputs.all Input.atPort = true ∧ step s = .next t ∧ t.sleeping = false :=
  ⟨{ powered .off 0x1 [] with sleeping := true, inputs := [atPort (.pwr 0x300) false false] }, _, rfl, rfl, rfl, rfl⟩

/-- `EveryStepKeepsInvariant` from a state with the bus in a transaction and a register listed. -/
theorem witness_EveryStepKeepsInvariant :
    ∃ s t : State, Inv s ∧ s.reg ≠ [] ∧ step s = .next t ∧ t ≠ s :=
  ⟨withBus { busUp [(0x03, 0x01)] with bstate := .reading, ptr := 0x05 } [0x200], _,
    ⟨⟨by decide, by decide, by decide, by decide, by decide, by decide, by decide, by decide⟩, by decide, by decide⟩,
    by decide, rfl, fun h => absurd (congrArg State.ptr h) (by decide)⟩

theorem witness_EveryOperationKeepsRegisterFileCanonical :
    ∃ (i : Instr) (s t : State), s.reg.wf s.cfg = true ∧ exec i s = .next t ∧ t.reg ≠ s.reg :=
  ⟨.set8 0x03 0x01, State.reset, _, by decide, rfl, by decide⟩

/-- `StartReason…`: a start event, and an operation of the firmware that rule R58 allows. -/
theorem witness_StartReasonIsOnlyEverOred :
    (∃ (s t : State) (r : Byte), s.cfg.wellFormed = true ∧ s.cfg.roBusWrite = .ignore ∧
      exec (.handleStartEvent r) s = .next t ∧ readReg t .startReason ≠ readReg s .startReason) ∧
    ∃ s t : State, s.cfg.wellFormed = true ∧ s.cfg.roBusWrite = .ignore ∧
      (Instr.set8 0x02 0x01).format = .storeOp ∧ fwEnvAllows s.cfg (.set8 0x02 0x01) = true ∧
      exec (.set8 0x02 0x01) s = .next t :=
  ⟨⟨powered .off 0 [], _, 0x01, by decide, rfl, rfl, by decide⟩, ⟨State.reset, _, by decide, rfl, rfl, by decide, rfl⟩⟩

/-- `McusrHoldsTheResetCause`: an operation of the firmware, and a bus write aimed at `MCUSR`. -/
theorem witness_RailCmdIsTheLastActuation :
    (∃ t, exec .step (powered .poweringOn 0xF []) = .next t ∧ t.railCmd ≠ (powered .poweringOn 0xF []).railCmd) ∧
    ∃ t, exec .mainIter { busUp [] with pstate := .poweringOff } = .next t ∧ t.railCmd ≠ (busUp []).railCmd :=
  ⟨⟨_, rfl, by decide⟩, ⟨_, rfl, by decide⟩⟩

theorem witness_RestartBytesGiveTheDelay :
    ∃ s : State, s.cfg.wellFormed = true ∧ s.pstate = .clearMask :=
  ⟨{ State.reset with pstate := .clearMask }, by decide, rfl⟩

/-- The third clause: `FW_ENV` sets the clock (step 9 of program P2) on an awake machine. -/
theorem witness_McusrHoldsTheResetCause_schedule :
    ∃ s t : State, s.cfg.wellFormed = true ∧ s.cfg.roBusWrite = .ignore ∧ fwEnvDrivesPort s = true ∧
      (∀ inp rest c, s.inputs = inp :: rest → decode s.cfg (eventWord s inp.event) ≠ .ok (.reset c)) ∧
      step s = .next t ∧ t.inputs = [] :=
  ⟨{ State.reset with inputs := [⟨.store 0x50900000001, .main, .ready, false, false⟩] }, _, by decide, rfl, by decide,
    by rintro inp rest c h; cases h; decide +revert, rfl, rfl⟩

theorem witness_McusrHoldsTheResetCause :
    (∃ s t : State, s.cfg.wellFormed = true ∧ s.cfg.roBusWrite = .ignore ∧
      fwEnvAllows s.cfg (.setMask 0x03 0x01) = true ∧ exec (.setMask 0x03 0x01) s = .next t) ∧
    ∃ s t : State, s.cfg.wellFormed = true ∧ s.cfg.roBusWrite = .ignore ∧ (Instr.busRxData 0xFF).format ≠ .storeOp ∧
      s.ptr = s.cfg.addrOf .mcusr ∧ (∀ c, Instr.busRxData 0xFF ≠ .reset c) ∧ exec (.busRxData 0xFF) s = .next t :=
  ⟨⟨State.reset, _, by decide, rfl, by decide, rfl⟩,
    ⟨{ busUp [] with bstate := .writing }, _, by decide, rfl, by decide, rfl, fun _ => Instr.noConfusion, rfl⟩⟩

theorem witness_PowerStateMovesAlongTheTable :
    ∃ (i : Instr) (s t : State), i.format ≠ .stepDec ∧ (∀ c, i ≠ .reset c) ∧ exec i s = .next t ∧
      t.pstate ≠ s.pstate :=
  ⟨.requestPowerDown, busUp [], _, by decide, fun _ => Instr.noConfusion, rfl, by decide⟩

theorem witness_ChargerLevelFollowsControlBit : State.reset.cfg.wellFormed = true := by decide

/-- `DecodeOfEncode…`: start conditions for this slave and for the devices next to it. -/
theorem witness_DecodeOfEncodeIsIdentity :
    (Instr.busStartW 0x42).wellFormed defaultCfg = true ∧ (Instr.busStartR 0x43).wellFormed defaultCfg = true ∧
    (Instr.busStartOther 0x41).wellFormed defaultCfg = true ∧ (Instr.busStartOther 0x44).wellFormed defaultCfg = true ∧
    (Instr.set32 0xFF 0xFFFFFFFF).wellFormed defaultCfg = true := by decide

end Sys2Proof.Machine.Tests
end

section
/-! SUPPORT. What the operations of each format leave unchanged (spec/30_encoding.md rule R61), as one record equation
per format: a field that stands on neither side of the equation's update is as it was. -/

namespace Sys2Proof.Machine

/-! ## Frames, format by format -/

/-- The operation of a row does what the row does, and returns nothing (rules R112 to R126). -/
theorem exec_rowInstr (r : StepRow) (s : State) : exec r.instr s = .next (reply (runRow s r) .none) := by
  cases r <;> rfl

/-- While the machine is suspended `MAIN_ITER` does not move (rule R41). -/
theorem exec_mainIter_asleep {s : State} (hs : s.sleeping = true) : exec .mainIter s = .next (reply s .none) :=
  congrArg (fun u => Host.Outcome.next (reply u .none)) (if_pos hs)

theorem exec_mainIter_awake {s : State} (hs : s.sleeping = false) :
    exec .mainIter s = .next (reply (runMain s) .none) :=
  congrArg (fun u => Host.Outcome.next (reply u .none)) (if_neg (by simp [hs]))

/-- The operations of format STEP are those of the fifteen rows (rule R68). -/
theorem exists_rowInstr_of_stepDec {i : Instr} (hf : i.format = .stepDec) : ∃ r : StepRow, i = r.instr := by
  cases i <;> cases hf
  exacts [⟨.initUp, rfl⟩, ⟨.initDown, rfl⟩, ⟨.clearMaskPg, rfl⟩, ⟨.clearMaskNoPg, rfl⟩, ⟨.offHold, rfl⟩,
    ⟨.offPg, rfl⟩, ⟨.offPgDrop, rfl⟩, ⟨.offPgHold, rfl⟩, ⟨.onHold, rfl⟩, ⟨.ponDone, rfl⟩, ⟨.ponRetry, rfl⟩,
    ⟨.poff, rfl⟩, ⟨.onFail, rfl⟩, ⟨.unkUp, rfl⟩, ⟨.unkDown, rfl⟩]

/-- The firmware port touches the register file alone (rules R80 to R85). -/
theorem exec_storeOp_frame {i : Instr} {s t : State} (hf : i.format = .storeOp) (h : exec i s = .next t) :
    t = { s with reg := t.reg, answer := t.answer } := by
  cases i <;> cases hf <;> cases h
  case get8 a => rfl
  case set8 a v => rw [writeByte_eq]; rfl
  case setMask a b => rw [setBits, writeByte_eq]; rfl
  case clearMask a b => rw [clearBits, writeByte_eq]; rfl
  case get32 a => rfl
  case set32 a v => rw [write32_eq]; rfl

/-- The internal operations touch the register file and the slave's own state (rules R86, R87, R100, R101). -/
theorem exec_internal_frame {i : Instr} {s t : State} (hf : i.format = .internal) (h : exec i s = .next t) :
    t = { s with reg := t.reg, busEn := t.busEn, bstate := t.bstate, ptr := t.ptr, answer := t.answer } := by
  cases i <;> cases hf <;> cases h
  case busRead8 a => rfl
  case busWrite8 a v => rw [busStore_eq]; rfl
  case busEnable => rfl
  case busDisable => rfl

/-- A bus event touches the register file, the transaction and the suspension (rules R91 to R99, R103). -/
theorem exec_busDec_frame {i : Instr} {s t : State} (hf : i.format = .busDec) (h : exec i s = .next t) :
    t = { s with
      reg := t.reg, bstate := t.bstate, ptr := t.ptr, sleeping := t.sleeping, answer := t.answer
      draws := t.draws } := by
  cases i <;> cases hf <;> cases h
  case busRxData b => rw [busStore_eq]; rfl
  all_goals rfl

/-- What no row of the transition table touches, whichever row the state selects (rules R112 to R126). -/
theorem runRow_frame (s : State) (r : StepRow) :
    runRow s r =
      { s with
        reg := (runRow s r).reg, pstate := (runRow s r).pstate, busEn := (runRow s r).busEn
        bstate := (runRow s r).bstate, ptr := (runRow s r).ptr, irqStart := (runRow s r).irqStart
        railCmd := (runRow s r).railCmd, trace := (runRow s r).trace } := by
  cases r with
  | clearMaskPg => simp only [runRow]; rw [leaveClearMask_eq]
  | clearMaskNoPg => simp only [runRow]; rw [leaveClearMask_eq]
  | offPg => simp only [runRow]; rw [handleStart_eq]
  | _ => rfl

/-- A start request, delivered or lost, touches the register file, `pstate` and the suspension (rules R129 to R131). -/
theorem startRequest_frame (s : State) (k : Nat) (reason : Byte) :
    startRequest s k reason =
      { s with
        reg := (startRequest s k reason).reg, pstate := (startRequest s k reason).pstate
        sleeping := (startRequest s k reason).sleeping } := by
  rcases startRequest_cases s k reason with ⟨_, e⟩ | ⟨_, e⟩ <;> rw [e]
  rw [handleStart_eq]; rfl

/-- The environment's part of the state (rules R8, R36): the configuration, the levels and the schedule. -/
structure SameEnvironment (s t : State) : Prop where
  cfg : t.cfg = s.cfg
  railGood : t.railGood = s.railGood
  powerGood : t.powerGood = s.powerGood
  inputs : t.inputs = s.inputs

theorem runMain_sameEnvironment (s : State) : SameEnvironment s (runMain s) := by
  obtain ⟨s0, tr, ph, sl, hs0, e, -⟩ := runMain_cases s
  rw [e]
  rcases hs0 with ⟨rfl, -⟩ | ⟨rfl, -⟩
  · exact ⟨rfl, rfl, rfl, rfl⟩
  · constructor <;> simp

theorem exec_pwrEvt_sameEnvironment {i : Instr} {s t : State} (hf : i.format = .pwrEvt) (h : exec i s = .next t) :
    SameEnvironment s t := by
  cases i <;> cases hf <;> cases h
  case step => constructor <;> simp
  case requestPowerDown => split <;> exact ⟨rfl, rfl, rfl, rfl⟩
  case handleStartEvent reason => constructor <;> simp
  case irqStartButton => rw [startRequest_frame]; exact ⟨rfl, rfl, rfl, rfl⟩
  case irqStartOpto => rw [startRequest_frame]; exact ⟨rfl, rfl, rfl, rfl⟩
  case irqStartTimeout => rw [startRequest_frame]; exact ⟨rfl, rfl, rfl, rfl⟩
  case mainIter =>
    split
    · exact ⟨rfl, rfl, rfl, rfl⟩
    · obtain ⟨hcfg, hrg, hpg, hin⟩ := runMain_sameEnvironment s
      exact ⟨hcfg, hrg, hpg, hin⟩
  case reset c => rw [hardwareReset_eq]; exact ⟨rfl, rfl, rfl, rfl⟩
  case wake => exact ⟨rfl, rfl, rfl, rfl⟩

/-- No operation writes the environment's part of the state, not even the reset (log entry 29). -/
theorem exec_sameEnvironment {i : Instr} {s t : State} (h : exec i s = .next t) : SameEnvironment s t := by
  cases hf : i.format with
  | storeOp => rw [exec_storeOp_frame hf h]; exact ⟨rfl, rfl, rfl, rfl⟩
  | internal => rw [exec_internal_frame hf h]; exact ⟨rfl, rfl, rfl, rfl⟩
  | busDec => rw [exec_busDec_frame hf h]; exact ⟨rfl, rfl, rfl, rfl⟩
  | stepDec =>
    obtain ⟨r, rfl⟩ := exists_rowInstr_of_stepDec hf
    rw [exec_rowInstr] at h
    cases h
    rw [runRow_frame]; exact ⟨rfl, rfl, rfl, rfl⟩
  | pwrEvt => exact exec_pwrEvt_sameEnvironment hf h

theorem exec_cfg {i : Instr} {s t : State} (h : exec i s = .next t) : t.cfg = s.cfg :=
  (exec_sameEnvironment h).cfg

theorem exec_inputs {i : Instr} {s t : State} (h : exec i s = .next t) : t.inputs = s.inputs :=
  (exec_sameEnvironment h).inputs

/-! ## What an operation does to the register file -/

/-- The register file that a store leaves depends on the configuration and the register file alone. -/
theorem writeByte_reg_congr {s t : State} (hc : t.cfg = s.cfg) (hr : t.reg = s.reg) (n : Nat) (v : Byte) :
    (writeByte t n v).reg = (writeByte s n v).reg := by
  simp only [writeByte, hc]
  split <;> simp [hr]

theorem busStore_reg_congr {s t : State} (hc : t.cfg = s.cfg) (hr : t.reg = s.reg) (a : Addr) (v : Byte) :
    (busStore t a v).reg = (busStore s a v).reg := by
  simp only [busStore, hc]
  split
  · exact writeByte_reg_congr hc hr _ v
  · exact hr

/-- The register files that operation `i` can leave: every way a register is written, with the operations that may take
it where that matters (rule R35 gives each register its writers). -/
inductive RegEffect (i : Instr) (s : State) : Memory → Prop where
  /-- Nothing is written. -/
  | kept : RegEffect i s s.reg
  /-- The firmware port stores one byte (rules R81 to R83). -/
  | stored (hf : i.format = .storeOp) (n : Nat) (v : Byte) : RegEffect i s (writeByte s n v).reg
  /-- The firmware port stores four bytes (rule R85). -/
  | storedWide (hf : i.format = .storeOp) (a : Addr) (v : Word32) : RegEffect i s (write32 s a v).reg
  /-- The bus port stores one byte, if it is accepted (rule R86). -/
  | busStored (a : Addr) (v : Byte) : RegEffect i s (busStore s a v).reg
  /-- The power controller writes `START_REASON` (rules R114, R115, R128). -/
  | reasonWritten (v : Byte) : RegEffect i s (writeReg s .startReason v).reg
  /-- The reset writes every register (rule R150). -/
  | wasReset (c : Byte) (hi : i = .reset c) : RegEffect i s (hardwareReset s c).reg

/-- The start-event handler, whatever else of the state moved before it (rules R117, R128 to R131). -/
theorem handleStart_regEffect (i : Instr) {s u : State} (hc : u.cfg = s.cfg) (hr : u.reg = s.reg) (reason : Byte) :
    RegEffect i s (handleStart u reason).reg := by
  rcases handleStart_cases u reason with ⟨_, e⟩ | ⟨_, e⟩ <;> rw [e]
  · exact hr ▸ .kept
  · have hreg : (writeReg u .startReason (readReg u .startReason ||| reason)).reg
        = (writeReg s .startReason (readReg u .startReason ||| reason)).reg := by
      simp only [writeReg, hc]; exact writeByte_reg_congr hc hr _ _
    exact hreg ▸ .reasonWritten _

theorem startRequest_regEffect (i : Instr) (s : State) (k : Nat) (reason : Byte) :
    RegEffect i s (startRequest s k reason).reg := by
  rcases startRequest_cases s k reason with ⟨_, e⟩ | ⟨_, e⟩ <;> rw [e]
  · exact .kept
  · exact handleStart_regEffect i (deliver_cfg s) (deliver_reg s) reason

/-- A row writes no register but `START_REASON` (rule R136). -/
theorem runRow_regEffect (i : Instr) (s : State) (r : StepRow) : RegEffect i s (runRow s r).reg := by
  cases r with
  | clearMaskPg | clearMaskNoPg => simp only [runRow]; rw [leaveClearMask_eq]; exact .reasonWritten 0
  | offPg => exact handleStart_regEffect (s := s) (u := { s with pstate := .offPowerGood }) i rfl rfl startPwrGood
  | _ => exact .kept

/-- An iteration writes the register file in its `step` evaluation only (rule R132). -/
theorem runMain_regEffect (i : Instr) (s : State) : RegEffect i s (runMain s).reg := by
  obtain ⟨s0, tr, ph, sl, hs0, e, -⟩ := runMain_cases s
  rw [e]
  rcases hs0 with ⟨rfl, -⟩ | ⟨rfl, -⟩
  · exact .kept
  · exact runRow_regEffect i s _

theorem exec_storeOp_regEffect {i : Instr} {s t : State} (hf : i.format = .storeOp) (h : exec i s = .next t) :
    RegEffect i s t.reg := by
  cases i <;> cases hf <;> cases h
  case get8 a => exact .kept
  case set8 a v => exact .stored rfl a.toNat v
  case setMask a b => exact .stored rfl a.toNat _
  case clearMask a b => exact .stored rfl a.toNat _
  case get32 a => exact .kept
  case set32 a v => exact .storedWide rfl a v

theorem exec_internal_regEffect {i : Instr} {s t : State} (hf : i.format = .internal) (h : exec i s = .next t) :
    RegEffect i s t.reg := by
  cases i <;> cases hf <;> cases h
  case busWrite8 a v => exact .busStored a v
  all_goals exact .kept

theorem exec_busDec_regEffect {i : Instr} {s t : State} (hf : i.format = .busDec) (h : exec i s = .next t) :
    RegEffect i s t.reg := by
  cases i <;> cases hf <;> cases h
  case busRxData b =>
    have hreg := busStore_reg_congr (deliver_cfg s) (deliver_reg s) s.ptr b
    exact hreg ▸ .busStored s.ptr b
  all_goals exact .kept

theorem exec_pwrEvt_regEffect {i : Instr} {s t : State} (hf : i.format = .pwrEvt) (h : exec i s = .next t) :
    RegEffect i s t.reg := by
  cases i <;> cases hf <;> cases h
  case step => exact runRow_regEffect _ s _
  case requestPowerDown => split <;> exact .kept
  case handleStartEvent reason => exact handleStart_regEffect _ rfl rfl reason
  case irqStartButton => exact startRequest_regEffect _ s 0 startButton
  case irqStartOpto => exact startRequest_regEffect _ s 1 startOpto
  case irqStartTimeout => exact startRequest_regEffect _ s 3 startTimeout
  case mainIter =>
    split
    · exact .kept
    · exact runMain_regEffect _ s
  case reset c => exact .wasReset c rfl
  case wake => exact .kept

/-- What every operation does to the register file. -/
theorem exec_regEffect {i : Instr} {s t : State} (h : exec i s = .next t) : RegEffect i s t.reg := by
  cases hf : i.format with
  | storeOp => exact exec_storeOp_regEffect hf h
  | internal => exact exec_internal_regEffect hf h
  | busDec => exact exec_busDec_regEffect hf h
  | stepDec =>
    obtain ⟨r, rfl⟩ := exists_rowInstr_of_stepDec hf
    rw [exec_rowInstr] at h
    cases h
    exact runRow_regEffect _ s r
  | pwrEvt => exact exec_pwrEvt_regEffect hf h

/-! ## The canonical form (log entry 7) -/

/-- Each way of writing a register keeps the canonical form. -/
theorem RegEffect.wf {i : Instr} {s : State} {m : Memory} (e : RegEffect i s m) (h : s.reg.wf s.cfg = true) :
    m.wf s.cfg = true := by
  cases e with
  | kept => exact h
  | stored hf n v => exact writeByte_wf n v h
  | storedWide hf a v => exact write32_wf a v h
  | busStored a v => exact busStore_wf a v h
  | reasonWritten v => exact writeReg_wf _ v h
  | wasReset c hi => exact hardwareReset_wf s c

theorem exec_wf {i : Instr} {s t : State} (hm : s.reg.wf s.cfg = true) (h : exec i s = .next t) :
    t.reg.wf t.cfg = true := by
  rw [exec_cfg h]; exact (exec_regEffect h).wf hm

/-- Settles O54: the configuration is in no operation's frame, and each way of writing a register keeps the form. -/
theorem everyOperationKeepsRegisterFileCanonical : Obligations.EveryOperationKeepsRegisterFileCanonical :=
  fun _ _ _ hm h => ⟨exec_cfg h, exec_wf hm h⟩

end Sys2Proof.Machine
end

section
/-! SUPPORT. The control invariants of spec/10_state.md rule R43 and spec/41_bus_slave_protocol.md rule R109: what each
kind of move does to them, then that every step keeps them. -/

namespace Sys2Proof.Machine

/-! ## The moves of the invariant -/

/-- The control invariants speak of seven fields; the others are free. -/
theorem ControlInv.of_data {s t : State} (h : ControlInv s)
    (e : t = { s with
      reg := t.reg, railCmd := t.railCmd, trace := t.trace, cfg := t.cfg, railGood := t.railGood
      powerGood := t.powerGood, inputs := t.inputs, answer := t.answer, draws := t.draws }) : ControlInv t := by
  rw [e]
  exact ⟨h.onBus, h.busPower, h.busOff, h.onMasked, h.known, h.idlePtr, h.sleepReady, h.sleepNotOn⟩

theorem ControlInv.reply {s : State} (h : ControlInv s) (a : Answer) : ControlInv (reply s a) :=
  h.of_data rfl

/-- A delivered interrupt ends the suspension, and with it what the suspension demands. -/
theorem ControlInv.deliver {s : State} (h : ControlInv s) : ControlInv (deliver s) :=
  ⟨h.onBus, h.busPower, h.busOff, h.onMasked, h.known, h.idlePtr, nofun, nofun⟩

/-- (I-b) backwards: outside `On` and `PoweringOff` the bus is disabled. -/
theorem ControlInv.bus_disabled {s : State} (h : ControlInv s) (hon : s.pstate ≠ .on) (hoff : s.pstate ≠ .poweringOff) :
    s.busEn = false := by
  cases hb : s.busEn with
  | false => rfl
  | true => exact ((h.busPower hb).elim hon hoff).elim

/-- With the bus disabled the sequencer may go to any known state but `On`, and the start mask may be loaded. -/
theorem ControlInv.move_disabled {s : State} (h : ControlInv s) (hb : s.busEn = false) (p : PState) (m : BitVec 4)
    (hon : p ≠ .on) (hk : p ≠ .unknown) : ControlInv { s with pstate := p, irqStart := m } where
  onBus hp := absurd hp hon
  busPower hb' := by rw [hb] at hb'; cases hb'
  busOff := h.busOff
  onMasked hp := absurd hp hon
  known := hk
  idlePtr := h.idlePtr
  sleepReady := h.sleepReady
  sleepNotOn _ := hon

/-- `PoweringOff` may be entered from anywhere: it demands nothing of the bus or of the mask. -/
theorem ControlInv.powerDown {s : State} (h : ControlInv s) : ControlInv { s with pstate := .poweringOff } where
  onBus := nofun
  busPower _ := .inr rfl
  busOff := h.busOff
  onMasked := nofun
  known := nofun
  idlePtr := h.idlePtr
  sleepReady := h.sleepReady
  sleepNotOn _ := nofun

/-- `On` is entered with the bus started, every start interrupt masked, and the loop awake (rule R121). -/
theorem ControlInv.powerOn {s : State} (h : ControlInv s) (hs : s.sleeping = false) :
    ControlInv { startBus s with irqStart := 0, pstate := .on } where
  onBus _ := rfl
  busPower _ := .inl rfl
  busOff := nofun
  onMasked _ := rfl
  known := nofun
  idlePtr _ := rfl
  sleepReady := h.sleepReady
  sleepNotOn hs' := by rw [startBus_sleeping, hs] at hs'; cases hs'

/-- `ClearMask` is entered with the bus stopped (rule R123). -/
theorem ControlInv.railOff {s : State} (h : ControlInv s) :
    ControlInv { actuateRailOff (stopBus s) with pstate := .clearMask } where
  onBus := nofun
  busPower := nofun
  busOff _ := ⟨rfl, rfl⟩
  onMasked := nofun
  known := nofun
  idlePtr _ := rfl
  sleepReady := h.sleepReady
  sleepNotOn _ := nofun

/-- A bus event of an enabled slave: it wakes the loop and leaves an idle slave at pointer 0. -/
theorem ControlInv.busEvent {s t : State} (h : ControlInv s) (hb : s.busEn = true)
    (e : t = { s with
      reg := t.reg, bstate := t.bstate, ptr := t.ptr, sleeping := t.sleeping, answer := t.answer
      draws := t.draws })
    (hidle : t.bstate = .idle → t.ptr = 0) (hs : t.sleeping = false) : ControlInv t := by
  rw [e, hs]
  exact ⟨h.onBus, h.busPower, fun hb' => absurd (hb.symm.trans hb') (by decide), h.onMasked, h.known, hidle, nofun,
    nofun⟩

/-! ## The operations -/

theorem ControlInv.handleStart {s : State} (h : ControlInv s) (reason : Byte) : ControlInv (handleStart s reason) := by
  rcases handleStart_cases s reason with ⟨_, e⟩ | ⟨hadm, e⟩ <;> rw [e]
  · exact h
  · obtain ⟨hp, -⟩ := startAdmitted_iff.mp hadm
    have hb : s.busEn = false := by rcases hp with hp | hp <;> exact h.bus_disabled (by simp [hp]) (by simp [hp])
    exact (h.move_disabled hb .poweringOn s.irqStart (by decide) (by decide)).of_data rfl

theorem ControlInv.startRequest {s : State} (h : ControlInv s) (k : Nat) (reason : Byte) :
    ControlInv (startRequest s k reason) := by
  rcases startRequest_cases s k reason with ⟨_, e⟩ | ⟨_, e⟩ <;> rw [e]
  · exact h
  · exact h.deliver.handleStart reason

theorem ControlInv.leaveClearMask {s : State} (h : ControlInv s) (hb : s.busEn = false) (p : PState) (hon : p ≠ .on)
    (hk : p ≠ .unknown) : ControlInv { leaveClearMask s with pstate := p } := by
  rw [leaveClearMask_eq]
  exact (h.move_disabled hb p (irqStartOf (readReg s .startEnable)) hon hk).of_data rfl

/-- The `step` evaluation of an awake machine: each state's rows, under the row that its levels select (rule R110). -/
theorem ControlInv.stepOnce {s : State} (h : ControlInv s) (hs : s.sleeping = false) : ControlInv (stepOnce s) := by
  have disabled : s.pstate ≠ .on → s.pstate ≠ .poweringOff → ∀ p : PState, p ≠ .on → p ≠ .unknown →
      ControlInv { s with pstate := p } := fun hon hoff p hpon hpk =>
    h.move_disabled (h.bus_disabled hon hoff) p s.irqStart hpon hpk
  unfold Machine.stepOnce
  rw [selectedRow_eq]
  cases hp : s.pstate with
  | init =>
    dsimp only
    split
    · exact disabled (by simp [hp]) (by simp [hp]) .poweringOn (by decide) (by decide)
    · exact h.powerDown
  | clearMask =>
    have hb : s.busEn = false := h.bus_disabled (by simp [hp]) (by simp [hp])
    dsimp only
    split
    · exact h.leaveClearMask hb .offPowerGood (by decide) (by decide)
    · exact h.leaveClearMask hb .off (by decide) (by decide)
  | off =>
    dsimp only
    split
    · exact (disabled (by simp [hp]) (by simp [hp]) .offPowerGood (by decide) (by decide)).handleStart startPwrGood
    · exact h
  | offPowerGood =>
    dsimp only
    split
    · exact h
    · exact disabled (by simp [hp]) (by simp [hp]) .off (by decide) (by decide)
  | poweringOn =>
    dsimp only
    split
    · exact h.powerOn hs
    · exact h.of_data rfl
  | poweringOff => exact h.railOff
  | on =>
    dsimp only
    split
    · exact h
    · exact h.powerDown
  | unknown => exact absurd hp h.known

/-- The loop suspends between iterations and outside `On` only (rule R132). -/
theorem ControlInv.runMain {s : State} (h : ControlInv s) (hs : s.sleeping = false) : ControlInv (runMain s) := by
  obtain ⟨s0, tr, ph, sl, hs0, e, hsl⟩ := runMain_cases s
  have h0 : ControlInv s0 := by
    rcases hs0 with ⟨rfl, -⟩ | ⟨rfl, -⟩
    · exact h
    · exact h.stepOnce hs
  have hsl : sl = true → s0.pstate ≠ .on ∧ ph = .ready := fun hx =>
    (hsl hx).resolve_left (by simp [hs])
  rw [e]
  exact ⟨h0.onBus, h0.busPower, h0.busOff, h0.onMasked, h0.known, h0.idlePtr, fun hx => (hsl hx).2,
    fun hx => (hsl hx).1⟩

theorem ControlInv.hardwareReset (s : State) (cause : Byte) : ControlInv (hardwareReset s cause) := by
  rw [hardwareReset_eq]
  exact ⟨nofun, nofun, fun _ => ⟨rfl, rfl⟩, nofun, nofun, fun _ => rfl, nofun, nofun⟩

/-! ## The ports -/

/-- The firmware port does not touch the control fields. -/
theorem ControlInv.exec_store {s t : State} {w : BitVec 43} {i : Instr} (h : ControlInv s)
    (hd : decode s.cfg (eventWord s (.store w)) = .ok i) (hx : exec i s = .next t) : ControlInv t := by
  have hf : i.format = .storeOp := by
    rcases decodeStore_cases hd with ⟨_, rfl⟩ | ⟨_, _, rfl⟩ | ⟨_, _, rfl⟩ | ⟨_, _, rfl⟩ | ⟨_, rfl⟩ | ⟨_, _, rfl⟩ <;> rfl
  exact h.of_data (by rw [exec_storeOp_frame hf hx])

/-- The operation of a bus event is that of its transaction state: only a selected slave moves the pointer. -/
theorem ControlInv.exec_bus {s t : State} {w : BitVec 10} {i : Instr} (h : ControlInv s)
    (hd : decode s.cfg (eventWord s (.bus w)) = .ok i) (hx : exec i s = .next t) : ControlInv t := by
  rcases decodeBusEvent_cases hd with ⟨-, rfl⟩ | ⟨hb, hi⟩
  · cases hx
    exact h.of_data rfl
  have key : i.format = .busDec ∧ (t.bstate = .idle → t.ptr = 0) ∧ t.sleeping = false := by
    rcases hi with ⟨p, rfl⟩ | ⟨p, rfl⟩ | ⟨p, rfl⟩ | ⟨p, rfl⟩ | ⟨-, p, rfl⟩ | ⟨hw, p, rfl⟩ | ⟨p, rfl⟩ | rfl | rfl |
      ⟨hr, rfl⟩ | rfl <;> cases hx
    -- in the order of `decodeBusEvent_cases`: the two operations that move the pointer run outside `Idle`
    exacts [⟨rfl, nofun, rfl⟩, ⟨rfl, nofun, rfl⟩, ⟨rfl, fun _ => rfl, rfl⟩, ⟨rfl, h.idlePtr, rfl⟩, ⟨rfl, nofun, rfl⟩,
      ⟨rfl, by simp [hw], by simp⟩, ⟨rfl, h.idlePtr, rfl⟩, ⟨rfl, h.idlePtr, rfl⟩, ⟨rfl, h.idlePtr, rfl⟩,
      ⟨rfl, by simp [hr], rfl⟩, ⟨rfl, fun _ => rfl, rfl⟩]
  obtain ⟨hf, hidle, hs⟩ := key
  exact h.busEvent hb (exec_busDec_frame hf hx) hidle hs

/-- The controller port; `step` and `MAIN_ITER` run in an awake machine only (rule R41). -/
theorem ControlInv.exec_pwr {s t : State} {w : BitVec 11} {i : Instr} (h : ControlInv s)
    (hd : decode s.cfg (eventWord s (.pwr w)) = .ok i) (hawake : i = .step ∨ i = .mainIter → s.sleeping = false)
    (hx : exec i s = .next t) : ControlInv t := by
  rcases decodePwr_cases hd with rfl | rfl | ⟨r, rfl⟩ | rfl | rfl | rfl | rfl | ⟨c, rfl⟩ | rfl <;> cases hx
  · exact (h.stepOnce (hawake (.inl rfl))).reply _
  · split
    · exact h.powerDown.reply _
    · exact h.reply _
  · exact (h.handleStart r).reply _
  · exact (h.startRequest 0 startButton).reply _
  · exact (h.startRequest 1 startOpto).reply _
  · exact (h.startRequest 3 startTimeout).reply _
  · have hs := hawake (.inr rfl)
    rw [if_neg (by simp [hs])]
    exact (h.runMain hs).reply _
  · exact (ControlInv.hardwareReset s c).reply _
  · exact h.deliver.reply _

/-! ## The step -/

/-- An operation that keeps the control invariants keeps the whole invariant. -/
theorem Inv.of_exec {i : Instr} {s t : State} (h : Inv s) (hx : exec i s = .next t) (hc : ControlInv t) : Inv t :=
  ⟨hc, exec_wf h.mem hx, by rw [exec_inputs hx]; exact h.ports⟩

theorem Inv.mainIter {s t : State} (h : Inv s) (hs : s.sleeping = false) (hx : exec .mainIter s = .next t) : Inv t := by
  refine h.of_exec hx ?_
  rw [exec_mainIter_awake hs] at hx
  cases hx
  exact (h.control.runMain hs).reply _

theorem Inv.freeSample {s : State} (h : Inv s) : Inv (freeSample s) :=
  ⟨h.control.of_data rfl, h.mem, h.ports⟩

/-- Taking an input keeps the invariant, and the input is at one of the spec's ports. -/
theorem Inv.serve_and_port {s : State} {inp : Input} {rest : List Input} (h : Inv s) (hi : s.inputs = inp :: rest) :
    Inv (serve s inp rest) ∧ inp.atPort = true := by
  have hports := h.ports
  simp only [hi, List.all_cons, Bool.and_eq_true] at hports
  exact ⟨⟨h.control.of_data rfl, h.mem, hports.2⟩, hports.1⟩

/-- A served input keeps the invariant, port by port. -/
theorem Inv.serveInput {s t : State} {inp : Input} {rest : List Input} {i : Instr} (h : Inv s)
    (hi : s.inputs = inp :: rest) (hd : decode s.cfg (eventWord s inp.event) = .ok i)
    (hmain : s.sleeping = true → runsInMain inp.ctx i = false) (hx : exec i (serve s inp rest) = .next t) :
    Inv t := by
  obtain ⟨hserve, hport⟩ := h.serve_and_port hi
  refine hserve.of_exec hx ?_
  unfold Input.atPort at hport
  cases he : inp.event with
  | store w => rw [he] at hd; exact hserve.control.exec_store hd hx
  | bus w => rw [he] at hd; exact hserve.control.exec_bus hd hx
  | pwr w =>
    rw [he] at hd
    refine hserve.control.exec_pwr hd (fun hloop => ?_) hx
    cases hs : s.sleeping with
    | false => exact hs
    | true => rcases hloop with rfl | rfl <;> cases hmain hs
  | internal w => rw [he] at hport; cases hport

/-- Settles O52: every step stands still, moves the main loop of an awake machine, passes over an input, or serves one
of the spec's ports. -/
theorem everyStepKeepsInvariant : Obligations.EveryStepKeepsInvariant := by
  intro s t h hstep
  rcases step_cases hstep with ⟨-, -, rfl⟩ | ⟨-, hs, -, hx⟩ | ⟨hs, -, hx⟩ | ⟨inp, rest, hi, rfl, -⟩ |
    ⟨inp, rest, i, hi, -, hd, hmain, hx⟩
  · exact h
  · exact h.freeSample.mainIter hs hx
  · exact h.mainIter hs hx
  · obtain ⟨hserve, -⟩ := h.serve_and_port hi
    exact ⟨hserve.control.reply _, hserve.mem, hserve.ports⟩
  · exact h.serveInput hi hd hmain hx

/-- Settles O51: at reset every clause holds of the reset values themselves. -/
theorem resetStateMeetsInvariant : Obligations.ResetStateMeetsInvariant where
  control := ⟨nofun, nofun, fun _ => ⟨rfl, rfl⟩, nofun, nofun, fun _ => rfl, nofun, nofun⟩
  mem := reset_reg_wf
  ports := rfl

/-- Settles O45: each of the three ways to move asks whether the loop sleeps. -/
theorem suspendedMainLoopDoesNotMove : Obligations.SuspendedMainLoopDoesNotMove := by
  intro s hs
  refine ⟨?_, fun hi => ?_, fun inp rest i hi hd hmain => ?_⟩
  · exact exec_mainIter_asleep hs
  · unfold step selectMove
    simp [hi, hs]
  · have hmid : midIteration s = false := by simp [midIteration, hs]
    unfold step selectMove
    simp [hi, hmid, serveInput, hd, hs, hmain, reply, serve]

end Sys2Proof.Machine
end

section
/-! SUPPORT. What the register file holds: its canonical form determines it (log entry 7), a named register keeps its
byte under writes to another (spec/00_scope.md rule R9), and who writes `MCUSR` (spec/10_state.md rules R34, R35). -/

namespace Sys2Proof

/-! ## Facts of rule R9 -/

/-- A named address has the class that rule R24 gives it. -/
theorem Cfg.classOf_addrOf {c : Cfg} (h : c.wellFormed = true) (n : RegName) :
    c.classOf (c.addrOf n) = some n.cls := by
  have hd : c.namesDefined = true := by
    simp only [Cfg.wellFormed, Bool.and_eq_true] at h; exact h.1.1.2
  simp only [Cfg.namesDefined, List.all_eq_true, beq_iff_eq] at hd
  exact hd n (by cases n <;> decide)

theorem oneHot_ne_zero {b : Byte} (h : oneHot b = true) : b ≠ 0 := by
  rintro rfl
  revert h
  decide

/-- The charger bit is a bit (rule R9, last constraint). -/
theorem Cfg.controlCe_ne_zero {c : Cfg} (h : c.wellFormed = true) : c.controlCe ≠ 0 := by
  have hb : c.bitGroupsOk = true := by simp only [Cfg.wellFormed, Bool.and_eq_true] at h; exact h.2
  simp only [Cfg.bitGroupsOk, bitGroup, List.all_cons, Bool.and_eq_true] at hb
  exact oneHot_ne_zero hb.1.1.1.1

end Sys2Proof

namespace Sys2Proof.Machine

/-! ## The canonical register file -/

/-- A cell that no entry is for reads as unlisted. -/
theorem Memory.read_unlisted (d : Nat → Byte) {m : Memory} {n : Nat} (h : ∀ cell ∈ m, cell.1 ≠ n) :
    m.read d n = d n := by
  induction m with
  | nil => rfl
  | cons cell m ih =>
    rw [List.forall_mem_cons] at h
    obtain ⟨hcell, hm⟩ := h
    simp [Memory.read, hcell, ih hm]

/-- In rising order a cell is read where it is listed. -/
theorem Memory.read_of_mem (d : Nat → Byte) {m : Memory} (hm : m.Pairwise fun a b => a.1 < b.1) {n : Nat} {v : Byte}
    (h : (n, v) ∈ m) : m.read d n = v := by
  induction m with
  | nil => cases h
  | cons cell m ih =>
    obtain ⟨hlt, hrest⟩ := List.pairwise_cons.mp hm
    rcases List.mem_cons.mp h with rfl | h
    · simp [Memory.read]
    · have hne : cell.1 ≠ n := Nat.ne_of_lt (hlt _ h)
      simp [Memory.read, hne, ih hrest h]

/-- A canonical file lists exactly the cells that do not read as unlisted. -/
theorem Memory.mem_iff_read {c : Cfg} {m : Memory} (hm : m.wf c = true) (n : Nat) (v : Byte) :
    (n, v) ∈ m ↔ m.read (unlistedByte c) n = v ∧ v ≠ unlistedByte c n := by
  obtain ⟨hrise, hcells⟩ := Memory.wf_iff.mp hm
  constructor
  · intro h
    exact ⟨Memory.read_of_mem _ hrise h, (hcells _ h).2⟩
  · rintro ⟨hread, hv⟩
    by_contra hnot
    refine hv (hread.symm.trans (Memory.read_unlisted _ ?_))
    rintro ⟨k, w⟩ hk rfl
    rw [Memory.read_of_mem _ hrise hk] at hread
    exact hnot (hread ▸ hk)

/-- Settles O7: two files that read alike list the same cells, and rising order leaves one list for them. -/
theorem canonicalRegisterFileIsUnique : Obligations.CanonicalRegisterFileIsUnique := by
  intro c m k hm hk hread
  have hmem : ∀ cell, cell ∈ m ↔ cell ∈ k := fun ⟨n, v⟩ => by
    rw [Memory.mem_iff_read hm, Memory.mem_iff_read hk, hread]
  have hanti : Std.Antisymm fun a b : Host.Cell => a.1 < b.1 := ⟨fun _ _ h h' => absurd h (Nat.lt_asymm h')⟩
  have hirrefl : Std.Irrefl fun a b : Host.Cell => a.1 < b.1 := ⟨fun _ => Nat.lt_irrefl _⟩
  exact (Memory.wf_iff.mp hm).1.eq_of_mem_iff (Memory.wf_iff.mp hk).1 hmem

/-! ## Named registers -/

/-- A store to a named register, seen at every named register: the names are distinct and defined (rule R9). -/
theorem readReg_writeReg {s : State} (hw : s.cfg.wellFormed = true) (r q : RegName) (v : Byte) :
    readReg (writeReg s r v) q = if q = r then v else readReg s q := by
  simp only [readReg, writeReg, writeByte_cfg, readByte_writeByte, Cfg.defines_addrOf hw, and_true]
  by_cases hq : q = r
  · rw [if_pos hq, hq, if_pos rfl]
  · rw [if_neg hq, if_neg fun e => hq (Cfg.addrOf_inj hw e)]

@[simp] theorem readReg_reply (s : State) (a : Answer) (r : RegName) : readReg (reply s a) r = readReg s r := rfl

/-- `SET8` at the address of a named register writes that register. -/
theorem exec_set8_addrOf {c : Cfg} {s : State} (hc : s.cfg = c) (r : RegName) (v : Byte) :
    exec (.set8 (c.addrOf r) v) s = .next (reply (writeReg s r v) .none) := by
  subst hc; rfl

/-- A bus write to a read-only register is dropped under `P_RO_BUS_WRITE = ignore` (rule R57, test 1). -/
theorem accept_ro {c : Cfg} {a : Addr} (hclass : c.classOf a = some .ro) (hro : c.roBusWrite = .ignore) (v : Byte) :
    accept c a v = false := by
  simp [accept, hclass, hro]

/-! ## `MCUSR` and its like: registers that the block itself leaves alone -/

/-- The bus master does not reach a read-only register while such writes are ignored. -/
theorem readReg_busStore_ro {s : State} (hw : s.cfg.wellFormed = true) (hro : s.cfg.roBusWrite = .ignore) {r : RegName}
    (hcls : r.cls = .ro) (a : Addr) (v : Byte) : readReg (busStore s a v) r = readReg s r := by
  rw [readReg, readReg, busStore_cfg, readByte_busStore, if_neg]
  rintro ⟨hacc, ha, -⟩
  have hclass : s.cfg.classOf a = some .ro := by
    rw [← BitVec.eq_of_toNat_eq ha, Cfg.classOf_addrOf hw, hcls]
  rw [accept_ro hclass hro] at hacc
  cases hacc

/-- Of the ways to write a register file, a read-only register other than `START_REASON` is reached by the firmware
port and the reset only (rules R35, R57). -/
theorem RegEffect.readReg_ro {i : Instr} {s : State} {m : Memory} (e : RegEffect i s m) (hw : s.cfg.wellFormed = true)
    (hro : s.cfg.roBusWrite = .ignore) {r : RegName} (hcls : r.cls = .ro) (hne : r ≠ .startReason)
    (hf : i.format ≠ .storeOp) (hreset : ∀ c, i ≠ .reset c) : readReg { s with reg := m } r = readReg s r := by
  cases e with
  | kept => rfl
  | stored hs n v => exact absurd hs hf
  | storedWide hs a v => exact absurd hs hf
  | busStored a v => rw [← busStore_eq, readReg_busStore_ro hw hro hcls]
  | reasonWritten v =>
    have heq : { s with reg := (writeReg s .startReason v).reg } = writeReg s .startReason v :=
      (writeByte_eq s _ v).symm
    rw [heq, readReg_writeReg hw, if_neg hne]
  | wasReset c hi => exact absurd hi (hreset c)

/-- No operation but a reset changes a read-only register that is neither in the firmware's column nor `START_REASON`
(rules R35, R57, R58). -/
theorem readReg_ro_exec {i : Instr} {s t : State} (hw : s.cfg.wellFormed = true) (hro : s.cfg.roBusWrite = .ignore)
    {r : RegName} (hcls : r.cls = .ro) (hne : r ≠ .startReason) (hcol : fwEnvWrites r = false)
    (hfw : i.format = .storeOp → fwEnvAllows s.cfg i = true) (hreset : ∀ c, i ≠ .reset c) (h : exec i s = .next t) :
    readReg t r = readReg s r := by
  by_cases hf : i.format = .storeOp
  · exact (fwEnvAllows_frame hw (hfw hf) h).2 r hcol
  · have hread : readReg t r = readReg { s with reg := t.reg } r := by
      have hc : t.cfg = s.cfg := exec_cfg h
      simp only [readReg, hc]
      exact readByte_congr (s := { s with reg := t.reg }) hc rfl _
    rw [hread, (exec_regEffect h).readReg_ro hw hro hcls hne hf hreset]

/-- A reset leaves its cause in `MCUSR` (rules R34, R150). -/
theorem readReg_mcusr_hardwareReset {s : State} (hw : s.cfg.wellFormed = true) (cause : Byte) :
    readReg (hardwareReset s cause) .mcusr = cause := by
  have hc : (hardwareReset s cause).cfg = s.cfg := by rw [hardwareReset_eq]
  rw [readReg, hc, readByte_hardwareReset, if_pos ⟨rfl, Cfg.defines_addrOf hw _⟩]

theorem readReg_mcusr_exec {i : Instr} {s t : State} (hw : s.cfg.wellFormed = true) (hro : s.cfg.roBusWrite = .ignore)
    (hfw : i.format = .storeOp → fwEnvAllows s.cfg i = true) (hreset : ∀ c, i ≠ .reset c) (h : exec i s = .next t) :
    readReg t .mcusr = readReg s .mcusr :=
  readReg_ro_exec hw hro rfl (by decide) rfl hfw hreset h

theorem readReg_mcusr_mainIter {s t : State} (hw : s.cfg.wellFormed = true) (hro : s.cfg.roBusWrite = .ignore)
    (h : exec .mainIter s = .next t) : readReg t .mcusr = readReg s .mcusr :=
  readReg_mcusr_exec hw hro (fun hf => by cases hf) (fun _ hc => by cases hc) h

/-- Settles O53: clause by clause; a step runs at most one operation, from a state that reads alike. -/
theorem mcusrHoldsTheResetCause : Obligations.McusrHoldsTheResetCause := by
  refine ⟨fun s cause hw => ⟨_, rfl, readReg_mcusr_hardwareReset hw cause⟩,
    fun i s t hw hro hfw hreset h => readReg_mcusr_exec hw hro hfw hreset h, ?_⟩
  intro s t hw hro hport hreset hstep
  rcases step_cases hstep with ⟨-, -, rfl⟩ | ⟨-, -, -, hx⟩ | ⟨-, -, hx⟩ | ⟨inp, rest, hi, rfl, -⟩ |
    ⟨inp, rest, i, hi, -, hd, -, hx⟩
  · rfl
  · exact readReg_mcusr_mainIter (s := freeSample s) hw hro hx
  · exact readReg_mcusr_mainIter hw hro hx
  · rfl
  · have hfw : i.format = .storeOp → fwEnvAllows s.cfg i = true := fwEnvDrivesPort_allows hport hi hd
    exact readReg_mcusr_exec (s := serve s inp rest) hw hro hfw (fun c hc => hreset inp rest c hi (hc ▸ hd)) hx

/-! ## Levels and the restart delay -/

theorem anyBit_or_self {mask : Byte} (h : mask ≠ 0) (v : Byte) : anyBit (v ||| mask) mask = true := by
  have hand : (v ||| mask) &&& mask = mask := by
    ext k
    simpa using Or.inr
  rw [anyBit, hand, bne_iff_ne]
  exact h

theorem anyBit_andNot_self (v mask : Byte) : anyBit (v &&& ~~~mask) mask = false := by
  have hand : v &&& ~~~mask &&& mask = 0 := by ext k; simp
  simp [anyBit, hand]

/-- The mask operations on a named register, seen at that register (rules R82, R83). -/
theorem readReg_setBits_self {s : State} (hw : s.cfg.wellFormed = true) (r : RegName) (bits : Byte) :
    readReg (setBits s (s.cfg.addrOf r) bits) r = readReg s r ||| bits :=
  (readReg_writeReg hw r r _).trans (if_pos rfl)

theorem readReg_clearBits_self {s : State} (hw : s.cfg.wellFormed = true) (r : RegName) (bits : Byte) :
    readReg (clearBits s (s.cfg.addrOf r) bits) r = readReg s r &&& ~~~bits :=
  (readReg_writeReg hw r r _).trans (if_pos rfl)

/-- Settles O57: ORing the bit in leaves it set, AND-NOTing it leaves it clear, and the bit is not 0 (rule R9). -/
theorem chargerLevelFollowsControlBit : Obligations.ChargerLevelFollowsControlBit := by
  intro s hw
  refine ⟨⟨_, rfl, ?_⟩, ⟨_, rfl, ?_⟩⟩
  · show anyBit (readReg (setBits s _ _) .control) (setBits s _ _).cfg.controlCe = true
    rw [readReg_setBits_self hw, setBits_cfg]
    exact anyBit_or_self (Cfg.controlCe_ne_zero hw) _
  · show anyBit (readReg (clearBits s _ _) .control) (clearBits s _ _).cfg.controlCe = false
    rw [readReg_clearBits_self hw, clearBits_cfg]
    exact anyBit_andNot_self _ _

/-- What a `ClearMask` row passes out: the three restart bytes as they stand (rules R114, R115). -/
theorem leaveClearMask_trace (s : State) :
    (leaveClearMask s).trace = s.trace ++
      [.armCountdown (readReg s .restartHours) (readReg s .restartMinutes) (readReg s .restartSeconds)] := by
  rw [leaveClearMask_eq]

/-- In `ClearMask` a `step` evaluation takes one of the two rows, by power-good. -/
theorem stepOnce_trace_of_clearMask {s : State} (hp : s.pstate = .clearMask) :
    (stepOnce s).trace = (leaveClearMask s).trace := by
  unfold stepOnce
  rw [selectedRow_eq, hp]
  dsimp only
  split <;> rfl

theorem restartTotal_le (h m sec : Byte) : restartTotal h m sec ≤ 933555 := by
  have := h.isLt
  have := m.isLt
  have := sec.isLt
  simp only [restartTotal]
  omega

/-- Settles O58: every way out of `ClearMask` passes out the three registers, and three `SET8` put their bytes there. -/
theorem restartBytesGiveTheDelay : Obligations.RestartBytesGiveTheDelay := by
  refine ⟨?_, ?_, restartTotal_le, rfl⟩
  · rintro i s (rfl | rfl | ⟨rfl, hp⟩)
    · exact ⟨_, _, _, _, rfl, leaveClearMask_trace s, rfl⟩
    · exact ⟨_, _, _, _, rfl, leaveClearMask_trace s, rfl⟩
    · exact ⟨_, _, _, _, rfl, (stepOnce_trace_of_clearMask hp).trans (leaveClearMask_trace s), rfl⟩
  · intro s h m sec hw hp
    refine ⟨_, _, _, _, exec_set8_addrOf rfl .restartHours h, exec_set8_addrOf (by simp) .restartMinutes m,
      exec_set8_addrOf (by simp) .restartSeconds sec, rfl, ?_, rfl⟩
    rw [reply_trace, stepOnce_trace_of_clearMask (by simp [hp]), leaveClearMask_trace]
    simp [readReg_writeReg, hw]

end Sys2Proof.Machine
end

section
/-! SUPPORT. The commanded rail level (spec/10_state.md rule R22): who writes it, and that nothing reads it. -/

namespace Sys2Proof.Machine

/-! ## Who writes `rail_cmd` -/

/-- The two actuating rows write `rail_cmd`, no other row does (rules R122, R123). -/
theorem runRow_railCmd (s : State) (r : StepRow) :
    (runRow s r).railCmd =
      match r with
      | .ponRetry => true
      | .poff => false
      | _ => s.railCmd := by
  cases r <;> simp [runRow]

/-- A `step` evaluation actuates on in `PoweringOn` without rail-good and off in `PoweringOff` (rule R110). -/
theorem stepOnce_railCmd (s : State) :
    (stepOnce s).railCmd =
      if s.pstate = .poweringOn ∧ s.railGood = false then true
      else if s.pstate = .poweringOff then false
      else s.railCmd := by
  rw [stepOnce, selectedRow_eq]
  cases s.pstate with
  | poweringOn => cases s.railGood <;> rfl
  | poweringOff => rfl
  | _ => simp only [reduceCtorEq, false_and, if_false]; split <;> exact runRow_railCmd s _

/-- An iteration writes `rail_cmd` in its `step` evaluation only (rule R132). -/
theorem runMain_railCmd (s : State) :
    (runMain s).railCmd = s.railCmd ∨ (runMain s).railCmd = (stepOnce s).railCmd := by
  obtain ⟨s0, tr, ph, sl, hs0, e, -⟩ := runMain_cases s
  rw [e]
  rcases hs0 with ⟨rfl, -⟩ | ⟨rfl, -⟩
  · exact .inl rfl
  · exact .inr rfl

/-- Of the controller port, a reset apart, only `step` and `MAIN_ITER` can write `rail_cmd`. -/
theorem exec_pwrEvt_railCmd {i : Instr} {s t : State} (hf : i.format = .pwrEvt) (hreset : ∀ c, i ≠ .reset c)
    (h : exec i s = .next t) :
    t.railCmd = s.railCmd ∨ (i = .step ∨ i = .mainIter) ∧ t.railCmd = (stepOnce s).railCmd := by
  cases i <;> cases hf <;> cases h
  case step => exact .inr ⟨.inl rfl, rfl⟩
  case mainIter =>
    split
    · exact .inl rfl
    · exact (runMain_railCmd s).imp id fun h => ⟨.inr rfl, h⟩
  case reset c => exact absurd rfl (hreset c)
  case requestPowerDown => split <;> exact .inl rfl
  case handleStartEvent reason => exact .inl (by simp)
  case wake => exact .inl rfl
  all_goals exact .inl (by rw [startRequest_frame]; rfl)

/-- The writers of `rail_cmd`: a reset, the two actuating rows, and a `step` evaluation that takes one of them. -/
theorem exec_railCmd {i : Instr} {s t : State} (hreset : ∀ c, i ≠ .reset c) (hretry : i ≠ .stepPonRetry)
    (hpoff : i ≠ .stepPoff) (h : exec i s = .next t) :
    t.railCmd = s.railCmd ∨ (i = .step ∨ i = .mainIter) ∧ t.railCmd = (stepOnce s).railCmd := by
  cases hf : i.format with
  | storeOp => exact .inl (by rw [exec_storeOp_frame hf h])
  | internal => exact .inl (by rw [exec_internal_frame hf h])
  | busDec => exact .inl (by rw [exec_busDec_frame hf h])
  | stepDec =>
    obtain ⟨r, rfl⟩ := exists_rowInstr_of_stepDec hf
    rw [exec_rowInstr] at h
    cases h
    refine .inl ?_
    rw [reply_railCmd, runRow_railCmd]
    cases r with
    | ponRetry => exact absurd rfl hretry
    | poff => exact absurd rfl hpoff
    | _ => rfl
  | pwrEvt => exact exec_pwrEvt_railCmd hf hreset h

/-! ## Nothing reads `rail_cmd`

Every operation commutes with a change of `rail_cmd` in the state it starts from, up to the `rail_cmd` it ends with. -/

/-- The state with another commanded rail level. -/
def withRailCmd (s : State) (b : Bool) : State := { s with railCmd := b }

/-- A test that does not concern `rail_cmd` may be made before or after. -/
theorem withRailCmd_ite (p : Prop) [Decidable p] (s t : State) (b : Bool) :
    withRailCmd (if p then s else t) b = if p then withRailCmd s b else withRailCmd t b :=
  apply_ite (withRailCmd · b) p s t

theorem writeByte_withRailCmd (s : State) (b : Bool) (n : Nat) (v : Byte) :
    writeByte (withRailCmd s b) n v = withRailCmd (writeByte s n v) b := by
  rw [writeByte, writeByte, withRailCmd_ite]; rfl

theorem write32_withRailCmd (s : State) (b : Bool) (a : Addr) (v : Word32) :
    write32 (withRailCmd s b) a v = withRailCmd (write32 s a v) b := by
  simp only [write32, writeByte_withRailCmd]

theorem busStore_withRailCmd (s : State) (b : Bool) (a : Addr) (v : Byte) :
    busStore (withRailCmd s b) a v = withRailCmd (busStore s a v) b := by
  rw [busStore, busStore, withRailCmd_ite, writeByte_withRailCmd]; rfl

theorem handleStart_withRailCmd (s : State) (b : Bool) (reason : Byte) :
    handleStart (withRailCmd s b) reason = withRailCmd (handleStart s reason) b := by
  rw [handleStart, handleStart, withRailCmd_ite, writeReg, writeByte_withRailCmd]; rfl

theorem startRequest_withRailCmd (s : State) (b : Bool) (k : Nat) (reason : Byte) :
    startRequest (withRailCmd s b) k reason = withRailCmd (startRequest s k reason) b := by
  have hdeliver : deliver (withRailCmd s b) = withRailCmd (deliver s) b := rfl
  rw [startRequest, startRequest, withRailCmd_ite, hdeliver, handleStart_withRailCmd]; rfl

theorem leaveClearMask_withRailCmd (s : State) (b : Bool) :
    leaveClearMask (withRailCmd s b) = withRailCmd (leaveClearMask s) b := by
  rw [leaveClearMask_eq, leaveClearMask_eq, writeReg, writeByte_withRailCmd]
  rfl

/-- The reset draws `rail_cmd` afresh. -/
theorem hardwareReset_withRailCmd (s : State) (b : Bool) (cause : Byte) :
    hardwareReset (withRailCmd s b) cause = hardwareReset s cause := by
  have hempty : { withRailCmd s b with reg := [] } = withRailCmd { s with reg := [] } b := rfl
  rw [hardwareReset_eq, hardwareReset_eq, hempty, writeReg, writeByte_withRailCmd]
  rfl

/-- A row ends with the level it actuates, or hands on the one it found. -/
theorem runRow_withRailCmd (s : State) (b : Bool) (r : StepRow) :
    ∃ b', runRow (withRailCmd s b) r = withRailCmd (runRow s r) b' := by
  cases r with
  | clearMaskPg | clearMaskNoPg =>
    refine ⟨b, ?_⟩
    simp only [runRow, leaveClearMask_withRailCmd]
    rfl
  | offPg => exact ⟨b, handleStart_withRailCmd { s with pstate := .offPowerGood } b startPwrGood⟩
  | ponRetry => exact ⟨true, rfl⟩
  | poff => exact ⟨false, rfl⟩
  | _ => exact ⟨b, rfl⟩

theorem stepOnce_withRailCmd (s : State) (b : Bool) : ∃ b', stepOnce (withRailCmd s b) = withRailCmd (stepOnce s) b' :=
  runRow_withRailCmd s b (selectedRow s)

theorem suspendPart_withRailCmd (s : State) (b : Bool) :
    suspendPart (withRailCmd s b) = withRailCmd (suspendPart s) b := by
  simp only [suspendPart, withRailCmd_ite]; rfl

theorem kickPart_withRailCmd (s : State) (b : Bool) : kickPart (withRailCmd s b) = withRailCmd (kickPart s) b := by
  simp only [kickPart, withRailCmd_ite, ← suspendPart_withRailCmd]; rfl

theorem stepPart_withRailCmd (s : State) (b : Bool) : ∃ b', stepPart (withRailCmd s b) = withRailCmd (stepPart s) b' := by
  obtain ⟨b', hb'⟩ := stepOnce_withRailCmd s b
  refine ⟨b', ?_⟩
  simp only [stepPart, hb', withRailCmd_ite, kickPart_withRailCmd]; rfl

theorem runMain_withRailCmd (s : State) (b : Bool) : ∃ b', runMain (withRailCmd s b) = withRailCmd (runMain s) b' := by
  have hphase : (withRailCmd s b).mainPhase = s.mainPhase := rfl
  unfold runMain
  rw [hphase]
  cases s.mainPhase with
  | ready => exact stepPart_withRailCmd s b
  | kickDue => exact ⟨b, kickPart_withRailCmd s b⟩
  | suspendDue => exact ⟨b, suspendPart_withRailCmd s b⟩

/-- From two states that differ in `rail_cmd` alone, operation `i` answers states that differ in it at most (rule R22). -/
def IgnoresRailCmd (i : Instr) : Prop :=
  ∀ (s : State) (b : Bool), ∃ t b', exec i s = .next t ∧ exec i (withRailCmd s b) = .next (withRailCmd t b')

/-- An operation that comes to states alike up to `rail_cmd` replies alike. -/
theorem exec_withRailCmd_of {i : Instr} {s u v : State} {b b' : Bool} {a : Answer}
    (hu : exec i s = .next (reply u a)) (hv : exec i (withRailCmd s b) = .next (reply v a))
    (h : v = withRailCmd u b') :
    ∃ t b', exec i s = .next t ∧ exec i (withRailCmd s b) = .next (withRailCmd t b') :=
  ⟨reply u a, b', hu, by rw [hv, h]; rfl⟩

theorem exec_storeOp_ignoresRailCmd {i : Instr} (hf : i.format = .storeOp) : IgnoresRailCmd i := by
  intro s b
  cases i <;> cases hf
  case get8 a => exact ⟨_, b, rfl, rfl⟩
  case set8 a v => exact exec_withRailCmd_of rfl rfl (writeByte_withRailCmd s b _ v)
  case setMask a m => exact exec_withRailCmd_of rfl rfl (writeByte_withRailCmd s b _ _)
  case clearMask a m => exact exec_withRailCmd_of rfl rfl (writeByte_withRailCmd s b _ _)
  case get32 a => exact ⟨_, b, rfl, rfl⟩
  case set32 a v => exact exec_withRailCmd_of rfl rfl (write32_withRailCmd s b a v)

theorem exec_internal_ignoresRailCmd {i : Instr} (hf : i.format = .internal) : IgnoresRailCmd i := by
  intro s b
  cases i <;> cases hf
  case busWrite8 a v => exact exec_withRailCmd_of rfl rfl (busStore_withRailCmd s b a v)
  all_goals exact ⟨_, b, rfl, rfl⟩

theorem exec_busDec_ignoresRailCmd {i : Instr} (hf : i.format = .busDec) : IgnoresRailCmd i := by
  intro s b
  cases i <;> cases hf
  case busRxData v =>
    have hstore := busStore_withRailCmd (deliver s) b s.ptr v
    exact exec_withRailCmd_of rfl rfl (congrArg advancePtr hstore)
  all_goals exact ⟨_, b, rfl, rfl⟩

theorem exec_pwrEvt_ignoresRailCmd {i : Instr} (hf : i.format = .pwrEvt) : IgnoresRailCmd i := by
  intro s b
  cases i <;> cases hf
  case step =>
    obtain ⟨b', h⟩ := stepOnce_withRailCmd s b
    exact exec_withRailCmd_of rfl rfl h
  case requestPowerDown => exact exec_withRailCmd_of rfl rfl (by rw [withRailCmd_ite]; rfl)
  case handleStartEvent reason => exact exec_withRailCmd_of rfl rfl (handleStart_withRailCmd s b reason)
  case irqStartButton => exact exec_withRailCmd_of rfl rfl (startRequest_withRailCmd s b _ _)
  case irqStartOpto => exact exec_withRailCmd_of rfl rfl (startRequest_withRailCmd s b _ _)
  case irqStartTimeout => exact exec_withRailCmd_of rfl rfl (startRequest_withRailCmd s b _ _)
  case mainIter =>
    cases hs : s.sleeping with
    | true => exact ⟨_, b, exec_mainIter_asleep hs, exec_mainIter_asleep hs⟩
    | false =>
      obtain ⟨b', h⟩ := runMain_withRailCmd s b
      exact exec_withRailCmd_of (exec_mainIter_awake hs) (exec_mainIter_awake hs) h
  case reset c =>
    exact exec_withRailCmd_of (b' := (hardwareReset s c).railCmd) rfl rfl (hardwareReset_withRailCmd s b c)
  case wake => exact ⟨_, b, rfl, rfl⟩

/-- No operation reads `rail_cmd` (rule R22). -/
theorem exec_ignoresRailCmd (i : Instr) : IgnoresRailCmd i := by
  cases hf : i.format with
  | storeOp => exact exec_storeOp_ignoresRailCmd hf
  | internal => exact exec_internal_ignoresRailCmd hf
  | busDec => exact exec_busDec_ignoresRailCmd hf
  | stepDec =>
    obtain ⟨r, rfl⟩ := exists_rowInstr_of_stepDec hf
    intro s b
    obtain ⟨b', h⟩ := runRow_withRailCmd s b r
    exact exec_withRailCmd_of (exec_rowInstr r s) (exec_rowInstr r _) h
  | pwrEvt => exact exec_pwrEvt_ignoresRailCmd hf

/-- Settles O4: the rows' own effects, the rows that a `step` evaluation selects, the writers, and non-interference. -/
theorem railCmdIsTheLastActuation : Obligations.RailCmdIsTheLastActuation := by
  refine ⟨fun s => ⟨_, _, rfl, rfl, rfl, rfl⟩, fun s => ⟨_, rfl, stepOnce_railCmd s⟩, ?_, ?_⟩
  · intro i s t hreset hretry hpoff h hne
    obtain ⟨hi, hstep⟩ := (exec_railCmd hreset hretry hpoff h).resolve_left hne
    exact ⟨hi, _, rfl, hstep⟩
  · intro i s b
    obtain ⟨t, b', ht, hu⟩ := exec_ignoresRailCmd i s b
    exact ⟨t, _, ht, hu, rfl⟩

end Sys2Proof.Machine
end

section
/-! SUPPORT. The acceptance test of the bus port at a named register (spec/20_memory.md rule R57, spec/10_state.md rule
R33), and the step that serves an input whose word decodes (spec/60_exceptions.md rule R142). -/

namespace Sys2Proof.Machine

/-! ## The three tests of `accept`, by register name -/

/-- The named addresses are pairwise distinct (rule R9). -/
theorem addrOf_eq_iff {c : Cfg} (h : c.wellFormed = true) {m n : RegName} : c.addrOf m = c.addrOf n ↔ m = n :=
  ⟨fun e => Cfg.addrOf_inj h (congrArg BitVec.toNat e), congrArg c.addrOf⟩

/-- Test 1 at a named register asks for the class that rule R24 gives it. -/
theorem classOf_addrOf_bne_ro {c : Cfg} (h : c.wellFormed = true) (n : RegName) :
    (c.classOf (c.addrOf n) != some .ro) = (n.cls != .ro) := by
  rw [Cfg.classOf_addrOf h]
  cases n.cls <;> rfl

/-- Test 2 at a named register: three registers have a documented range (rule R33). -/
theorem inRange_addrOf {c : Cfg} (h : c.wellFormed = true) (n : RegName) (v : Byte) :
    inRange c (c.addrOf n) v =
      if n = .i2cIcharge then decide (v.toNat ≤ 3)
      else if n = .i2cTcharge then decide (3 ≤ v.toNat ∧ v.toNat ≤ 10)
      else if n = .wdtStop then decide (1 ≤ v.toNat)
      else true := by
  simp only [inRange, addrOf_eq_iff h, BitVec.le_def, Bool.decide_and]
  rfl

/-- Test 3 at a named register: the capability its register group is paired with (decision D13). -/
theorem capOpen_addrOf {c : Cfg} (h : c.wellFormed = true) (n : RegName) :
    capOpen c (c.addrOf n) =
      if n = .i2cIcharge ∨ n = .i2cTcharge then
        anyBit c.capabilityVal c.capCharger && decide (c.minChargeStep.toNat ≤ c.boardStepVal.toNat)
      else if n = .wdtReset ∨ n = .wdtPower ∨ n = .wdtStop ∨ n = .wdtStart then anyBit c.capabilityVal c.capWdt
      else if n = .seconds0 ∨ n = .seconds1 ∨ n = .seconds2 ∨ n = .seconds3 then anyBit c.capabilityVal c.capRtc
      else true := by
  simp only [capOpen, addrOf_eq_iff h, BitVec.le_def]

/-- Settles O10: each test reads the address only through its name; then the registers one by one. -/
theorem acceptTestsClassRangeAndCapability : Obligations.AcceptTestsClassRangeAndCapability := by
  intro c n v h
  rw [accept, classOf_addrOf_bne_ro h, inRange_addrOf h, capOpen_addrOf h]
  cases n <;> rfl

/-! ## The step that serves an input -/

/-- The next input is served between two iterations, while suspended, and where it falls inside an iteration. -/
theorem selectMove_of_due {s : State} {inp : Input} {rest : List Input} (hi : s.inputs = inp :: rest)
    (hdue : midIteration s = false ∨ due s.mainPhase inp = true) : selectMove s = serveInput s inp rest := by
  have hserve : ¬ (midIteration s && !due s.mainPhase inp) = true := by
    rcases hdue with h | h <;> simp [h]
  unfold selectMove
  rw [hi]
  exact if_neg hserve

/-- A word that decodes runs its operation, unless that is one of context `main` and the machine is suspended. -/
theorem serveInput_of_decode {s : State} {inp : Input} {i : Instr} (rest : List Input)
    (hd : decode s.cfg (eventWord s inp.event) = .ok i) (hmain : s.sleeping = true → runsInMain inp.ctx i = false) :
    serveInput s inp rest = .run i (serve s inp rest) := by
  have hruns : ¬ (s.sleeping && runsInMain inp.ctx i) = true := by simpa using hmain
  unfold serveInput
  rw [hd]
  exact if_neg hruns

/-- Settles O47: the input is served, and serving it runs its operation. -/
theorem stepRunsDecodedOperation : Obligations.StepRunsDecodedOperation := by
  intro s inp rest i hi hdue hd hmain
  rw [step, selectMove_of_due hi hdue, serveInput_of_decode rest hd hmain]
  rfl

end Sys2Proof.Machine
end

section
/-! SUPPORT. The decoder on the words of the encoder, format by format, and on the reserved codes (spec/30_encoding.md
rules R61, R68 to R70, R72, R78). -/

namespace Sys2Proof

/-! ## The encoder's words -/

/-- The fields of a STORE_OP word are read back where the encoder put them (rule R69). -/
theorem decode_encode_storeOp (c : Cfg) {i : Instr} (hf : i.format = .storeOp) : decode c (encode i) = .ok i := by
  cases i <;> cases hf <;> simp only [encode, decode, decodeStore]
  case get8 | get32 => rw [storeWord_op, storeWord_addr]; rfl
  case set8 | setMask | clearMask => rw [storeWord_op, storeWord_addr, storeWord_byte]; rfl
  case set32 => rw [storeWord_op, storeWord_addr, storeWord_data]; rfl

/-- The same for the model's own words of the INTERNAL operations (log entry 15). -/
theorem decode_encode_internal (c : Cfg) {i : Instr} (hf : i.format = .internal) : decode c (encode i) = .ok i := by
  cases i <;> cases hf
  case busRead8 a => simp only [encode, decode, decodeInternal, internalWord_iop, internalWord_addr]; rfl
  case busWrite8 a v =>
    simp only [encode, decode, decodeInternal, internalWord_iop, internalWord_addr, internalWord_v]; rfl
  case busEnable => rfl
  case busDisable => rfl

/-- A BUS_DEC word decodes to what the table of rule R78 selects, if its payload is the operand that row demands. -/
theorem decode_busDec_of_wellFormed {c : Cfg} {bd : BitVec 7} {p : Byte} {i : Instr} (hsel : decodeBus bd p = i)
    (hw : i.wellFormed c = true) : decode c (.busDec bd p) = .ok i := by
  subst hsel
  exact if_pos hw

/-- The encoder's word of each row of rule R78 selects that row; here the operands matter (rules R91 to R93). -/
theorem decode_encode_busDec {c : Cfg} {i : Instr} (hf : i.format = .busDec) (hw : i.wellFormed c = true) :
    decode c (encode i) = .ok i := by
  cases i <;> cases hf <;> exact decode_busDec_of_wellFormed rfl hw

/-- The encoder's word of each row of rule R68 selects that row. -/
theorem decode_encode_rowInstr (c : Cfg) (r : StepRow) : decode c (encode r.instr) = .ok r.instr := by
  cases r <;> rfl

/-- The fields of a PWR_EVT word are read back where the encoder put them (rule R70). -/
theorem decode_encode_pwrEvt (c : Cfg) {i : Instr} (hf : i.format = .pwrEvt) : decode c (encode i) = .ok i := by
  cases i <;> cases hf
  case handleStartEvent | reset => simp only [encode, decode, decodePwr, pwrWord_pev, pwrWord_payload]; rfl
  all_goals rfl

/-- Settles O59: format by format; the operands are restricted in the bus format only. -/
theorem decodeOfEncodeIsIdentity : Obligations.DecodeOfEncodeIsIdentity := by
  intro c i hw
  match hf : i.format with
  | .storeOp => exact decode_encode_storeOp c hf
  | .internal => exact decode_encode_internal c hf
  | .busDec => exact decode_encode_busDec hf hw
  | .stepDec =>
    obtain ⟨r, rfl⟩ := Machine.exists_rowInstr_of_stepDec hf
    exact decode_encode_rowInstr c r
  | .pwrEvt => exact decode_encode_pwrEvt c hf

/-- A word that is the encoder's word of a well-formed operation decodes to it. -/
theorem decode_of_eq_encode {c : Cfg} {w : OpWord} {i : Instr} (he : w = encode i) (hw : i.wellFormed c = true) :
    decode c w = .ok i :=
  he ▸ decodeOfEncodeIsIdentity c i hw

/-! ## The reserved codes (rule R72) -/

/-- `STORE_OP` codes 6 and 7, with any operand bits. -/
theorem decode_storeOp_reserved (c : Cfg) {op : BitVec 3} (hop : op = 6 ∨ op = 7) (a : Addr) (d : Word32) :
    decode c (.storeOp (op ++ a ++ d)) = .error .reservedStoreOp := by
  rcases hop with rfl | rfl <;> simp only [decode, decodeStore, storeWord_op] <;> rfl

/-- `PWR_EVT` code 7, with any payload. -/
theorem decode_pwrEvt_reserved (c : Cfg) (p : Byte) : decode c (.pwrEvt (7#3 ++ p)) = .error .reservedPwrEvent := by
  simp only [decode, decodePwr, pwrWord_pev]; rfl

/-- The source index of a start request is in the payload. -/
theorem pwrWord_source (pev : BitVec 3) (p : Byte) :
    BitVec.extractLsb' 0 2 (pev ++ p) = BitVec.extractLsb' 0 2 p := by
  refine BitVec.eq_of_getLsbD_eq fun i hi => ?_
  have hpayload : i < 8 := by omega
  simp only [BitVec.getLsbD_extractLsb', BitVec.getLsbD_append]
  simp [hpayload]

/-- A start request with source index 2: the power-good source has no interrupt (rule R70). -/
theorem decode_pwrEvt_reservedSource (c : Cfg) {p : Byte} (hp : p.extractLsb' 0 2 = 2) :
    decode c (.pwrEvt (3#3 ++ p)) = .error .reservedStartSource := by
  simp only [decode, decodePwr, pwrWord_pev, pwrWord_source, hp]; rfl

/-- Settles O60: eight of the words are the encoder's, two are reserved. -/
theorem wordsOfTheVectorsDecode : Obligations.WordsOfTheVectorsDecode := by
  refine ⟨?set8, ?setMask, ?get32, ?handler, ?button, ?timeout, ?reset, ?mainIter, ?reservedOp, ?reservedSource⟩
  case reservedOp => exact decode_storeOp_reserved _ (op := 6) (.inl rfl) 0 0
  case reservedSource => exact decode_pwrEvt_reservedSource _ (p := 2) rfl
  all_goals exact decode_of_eq_encode rfl rfl

end Sys2Proof

namespace Sys2Proof.Machine

/-! ## The step that serves a reserved code -/

/-- A word that names no operation is taken off the schedule, and nothing runs. -/
theorem serveInput_of_reject {s : State} {inp : Input} {r : Reject} (rest : List Input)
    (hd : decode s.cfg (eventWord s inp.event) = .error r) :
    serveInput s inp rest = .still (reply (serve s inp rest) .none) := by
  unfold serveInput
  rw [hd]

/-- The three kinds of reserved event reach the decoder as reserved words. -/
theorem decode_eventWord_reserved (s : State) {e : PortEvent}
    (he : (∃ (op : BitVec 3) (a : Addr) (d : Word32), (op = 6 ∨ op = 7) ∧ e = .store (op ++ a ++ d)) ∨
      (∃ p : Byte, e = .pwr (7#3 ++ p)) ∨ ∃ p : Byte, p.extractLsb' 0 2 = 2 ∧ e = .pwr (3#3 ++ p)) :
    ∃ r, decode s.cfg (eventWord s e) = .error r := by
  rcases he with ⟨op, a, d, hop, rfl⟩ | ⟨p, rfl⟩ | ⟨p, hp, rfl⟩
  · exact ⟨_, decode_storeOp_reserved _ hop a d⟩
  · exact ⟨_, decode_pwrEvt_reserved _ p⟩
  · exact ⟨_, decode_pwrEvt_reservedSource _ hp⟩

/-- Settles O48: the input is served, its word is rejected, and nothing runs. -/
theorem reservedCodesDoNothing : Obligations.ReservedCodesDoNothing := by
  intro s inp rest hi hdue hreserved
  obtain ⟨r, hd⟩ := decode_eventWord_reserved s hreserved
  rw [step, selectMove_of_due hi hdue, serveInput_of_reject rest hd]
  rfl

end Sys2Proof.Machine
end

section
/-! SUPPORT. A transaction of the bus master, event by event (spec/41_bus_slave_protocol.md rules R91, R94, R95, R99,
R102), and the host's write-RTC (spec/30_encoding.md rule R76). -/

namespace Sys2Proof.Machine

/-! ## What a bus event of the master decodes to -/

/-- A bus event whose BUS_DEC word selects an operation, with the payload that operation demands, decodes to it. -/
theorem decode_busEvent {s : State} {bev : BitVec 2} {p : Byte} {i : Instr}
    (hsel : decodeBus (busWord s (bev ++ p)) p = i) (hw : i.wellFormed s.cfg = true) :
    decode s.cfg (eventWord s (.bus (bev ++ p))) = .ok i := by
  rw [eventWord, busEvent_payload]
  exact decode_busDec_of_wellFormed hsel hw

/-- The slave's write address byte names this slave, with direction 0 (rule R62). -/
theorem writeAddressByte (c : Cfg) :
    ownAddress c (c.slaveAddr ++ 0#1) = true ∧ (c.slaveAddr ++ 0#1 : Byte).getLsbD 0 = false := by
  have hdir : (c.slaveAddr ++ 0#1 : Byte).getLsbD 0 = false := by
    rw [BitVec.getLsbD_append]; rfl
  refine ⟨beq_iff_eq.mpr ((addressByte_eq _ _).mp ?_), hdir⟩
  rw [hdir]; rfl

/-- A start condition for this slave, to write (rule R91). -/
theorem decode_evStartW {s : State} {c : Cfg} (hc : s.cfg = c) (hen : s.busEn = true) :
    decode s.cfg (eventWord s (.bus (evStartW c))) = .ok (.busStartW (c.slaveAddr ++ 0#1)) := by
  subst hc
  obtain ⟨hown, hdir⟩ := writeAddressByte s.cfg
  refine decode_busEvent ?_ (beq_self_eq_true _)
  rw [busWord, busEvent_kind, busEvent_payload, hown, hdir, decodeBus_eq, hen]
  rfl

/-- A received byte while the slave expects the pointer (rule R94). -/
theorem decode_evRx_addressSelect {s : State} (hen : s.busEn = true) (hb : s.bstate = .addressSelect) (b : Byte) :
    decode s.cfg (eventWord s (.bus (evRx b))) = .ok (.busRxAddr b) := by
  refine decode_busEvent ?_ rfl
  rw [busWord, busEvent_kind, decodeBus_eq, hen, hb]
  rfl

/-- A received byte while the slave expects data (rule R95). -/
theorem decode_evRx_writing {s : State} (hen : s.busEn = true) (hb : s.bstate = .writing) (b : Byte) :
    decode s.cfg (eventWord s (.bus (evRx b))) = .ok (.busRxData b) := by
  refine decode_busEvent ?_ rfl
  rw [busWord, busEvent_kind, decodeBus_eq, hen, hb]
  rfl

/-- A stop condition (rule R99). -/
theorem decode_evStop {s : State} (hen : s.busEn = true) :
    decode s.cfg (eventWord s (.bus evStop)) = .ok .busStop := by
  refine decode_busEvent (bev := 3) (p := 0) ?_ rfl
  rw [busWord, busEvent_kind, decodeBus_eq, hen]
  rfl

/-! ## One transaction, event by event -/

/-- Where a transaction stands: the bus is enabled in state `b` with the pointer at `p`, the main loop is between two
iterations, `is` is to come, and the register file is that of the reference state `r`. -/
structure OnBus (r : State) (b : BState) (p : Addr) (is : List Input) (s : State) : Prop where
  cfg : s.cfg = r.cfg
  reg : s.reg = r.reg
  busEn : s.busEn = true
  phase : s.mainPhase = .ready
  bstate : s.bstate = b
  ptr : s.ptr = p
  inputs : s.inputs = is

section
variable {r s : State} {b : BState} {p : Addr} {is : List Input}

/-- The operations of the bus are interrupts (rule R61, column Context). -/
theorem runsInMain_busDec {i : Instr} (hf : i.format = .busDec) (x : Context) : runsInMain x i = false := by
  cases i <;> cases hf <;> rfl

/-- The next event of a transaction is served at once, and its operation runs. -/
theorem OnBus.step_eq {w : BitVec 10} {i : Instr} (h : OnBus r b p (atBus w :: is) s)
    (hd : decode s.cfg (eventWord s (.bus w)) = .ok i) (hf : i.format = .busDec) :
    step s = exec i (serve s (atBus w) is) :=
  stepRunsDecodedOperation s _ _ i h.inputs (.inl (by rw [midIteration, h.phase]; rfl)) hd
    fun _ => runsInMain_busDec hf _

/-- A start for this slave keeps the pointer (rule R91). -/
theorem OnBus.step_startW (h : OnBus r b p (atBus (evStartW r.cfg) :: is) s) :
    ∃ t, step s = .next t ∧ OnBus r .addressSelect p is t := by
  refine ⟨_, h.step_eq (decode_evStartW h.cfg h.busEn) rfl, ?_⟩
  exact ⟨h.cfg, h.reg, h.busEn, h.phase, rfl, h.ptr, rfl⟩

/-- The first byte becomes the pointer (rule R94). -/
theorem OnBus.step_rxAddr {a : Byte} (h : OnBus r .addressSelect p (atBus (evRx a) :: is) s) :
    ∃ t, step s = .next t ∧ OnBus r .writing a is t := by
  refine ⟨_, h.step_eq (decode_evRx_addressSelect h.busEn h.bstate a) rfl, ?_⟩
  exact ⟨h.cfg, h.reg, h.busEn, h.phase, rfl, rfl, rfl⟩

/-- A data byte is stored at the pointer as the bus port stores it, and the pointer advances (rule R95). -/
theorem OnBus.step_rxData {v : Byte} (h : OnBus r .writing p (atBus (evRx v) :: is) s) :
    ∃ t, step s = .next t ∧ OnBus (busStore r p v) .writing (inc r.cfg p) is t := by
  have hp := h.ptr
  subst hp
  refine ⟨_, h.step_eq (decode_evRx_writing h.busEn h.bstate v) rfl, ?_⟩
  have hreg := busStore_reg_congr (t := deliver (serve s (atBus (evRx v)) is)) h.cfg h.reg s.ptr v
  refine ⟨?_, hreg, ?_, ?_, ?_, ?_, ?_⟩ <;>
    simp [advancePtr, serve, h.cfg, h.busEn, h.phase, h.bstate]

/-- A stop ends the transaction with the pointer at 0 (rule R99). -/
theorem OnBus.step_stop (h : OnBus r b p (atBus evStop :: is) s) :
    ∃ t, step s = .next t ∧ OnBus r .idle 0 is t := by
  refine ⟨_, h.step_eq (decode_evStop h.busEn) rfl, ?_⟩
  exact ⟨h.cfg, h.reg, h.busEn, h.phase, rfl, rfl, rfl⟩

end

/-! ## The pointer among the addresses of `Defined` -/

/-- `LAST` bounds every address of `Defined` (rule R8). -/
theorem le_lastAddr {c : Cfg} {d : RegDef} (h : d ∈ c.regs) : d.addr ≤ lastAddr c := by
  unfold lastAddr
  generalize c.regs = l at h
  induction l with
  | nil => cases h
  | cons e l ih =>
    rw [List.foldr_cons]
    rcases List.mem_cons.mp h with rfl | h <;> split
    · exact BitVec.le_refl _
    · next hlt => exact BitVec.not_lt.mp hlt
    · next hlt => exact BitVec.le_trans (ih h) (BitVec.le_of_lt hlt)
    · exact ih h

/-- Below an address of `Defined` the pointer steps on (rule R102). -/
theorem inc_of_defines {c : Cfg} {p q : Addr} (hq : c.defines q.toNat = true) (hsucc : q.toNat = p.toNat + 1) :
    inc c p = q := by
  obtain ⟨d, hd⟩ := Option.isSome_iff_exists.mp hq
  have hdq : d.addr.toNat = q.toNat := by simpa using List.find?_some hd
  have hlast : d.addr ≤ lastAddr c := le_lastAddr (List.mem_of_find?_eq_some hd)
  have hlt : ¬ lastAddr c ≤ p := by
    rw [BitVec.le_def] at hlast ⊢
    omega
  rw [inc, if_neg hlt]
  refine BitVec.eq_of_toNat_eq ?_
  have hbound := q.isLt
  rw [BitVec.toNat_add, show BitVec.toNat (1 : Addr) = 1 from rfl]
  omega

/-! ## The clock -/

/-- The bus master reaches the four clock registers whatever the class and range policies (rule R57, decision D13). -/
theorem accept_clock {c : Cfg} (hw : c.wellFormed = true)
    (hcap : c.capGate = .off ∨ c.capabilityVal &&& c.capRtc ≠ 0) {n : RegName}
    (hn : n ∈ [RegName.seconds0, .seconds1, .seconds2, .seconds3]) (v : Byte) : accept c (c.addrOf n) v = true := by
  have hgate : (c.capGate == .off || anyBit c.capabilityVal c.capRtc) = true := by
    simpa [anyBit] using hcap
  rw [accept, classOf_addrOf_bne_ro hw, inRange_addrOf hw, capOpen_addrOf hw]
  simp only [List.mem_cons, List.not_mem_nil, or_false] at hn
  rcases hn with rfl | rfl | rfl | rfl <;> simpa [RegName.cls] using hgate

/-- A byte of the clock that the bus master streams is a write of that register (rule R95). -/
theorem OnBus.step_rxClock {c : Cfg} {r s : State} {is : List Input} {n : RegName} {v : Byte} (hw : c.wellFormed = true)
    (hcap : c.capGate = .off ∨ c.capabilityVal &&& c.capRtc ≠ 0)
    (hn : n ∈ [RegName.seconds0, .seconds1, .seconds2, .seconds3]) (hc : r.cfg = c)
    (h : OnBus r .writing (c.addrOf n) (atBus (evRx v) :: is) s) :
    ∃ t, step s = .next t ∧ OnBus (writeReg r n v) .writing (inc c (c.addrOf n)) is t := by
  subst hc
  obtain ⟨t, ht, hon⟩ := h.step_rxData
  rw [busStore, if_pos (accept_clock hw hcap hn v)] at hon
  exact ⟨t, ht, hon⟩

/-- The clock as a wide field: its four registers, least significant byte first (rule R48). -/
theorem write32_seconds0 {s : State} (hw : s.cfg.wellFormed = true) (v : Word32) :
    write32 s (s.cfg.addrOf .seconds0) v =
      writeReg (writeReg (writeReg (writeReg s .seconds0 (byteOf v 0)) .seconds1 (byteOf v 1)) .seconds2 (byteOf v 2))
        .seconds3 (byteOf v 3) := by
  obtain ⟨h1, h2, h3⟩ := Cfg.seconds_toNat hw
  simp only [write32, writeReg, writeByte_cfg, h1, h2, h3]

/-- What `SET32` stores, `GET32` returns, where all four bytes are in `Defined` (rules R45, R46). -/
theorem read32_write32 {s : State} {a : Addr} (hd : ∀ i < 4, s.cfg.defines (a.toNat + i) = true) (v : Word32) :
    read32 (write32 s a v) a = v := by
  have h0 := hd 0 (by decide)
  have h1 := hd 1 (by decide)
  have h2 := hd 2 (by decide)
  have h3 := hd 3 (by decide)
  simp only [Nat.add_zero] at h0
  simp [read32, readByte_write32, h0, h1, h2, h3, assemble32_byteOf]

/-- The four clock addresses are in `Defined` (rule R9). -/
theorem defines_clock {c : Cfg} (hw : c.wellFormed = true) :
    ∀ i < 4, c.defines ((c.addrOf .seconds0).toNat + i) = true := by
  obtain ⟨h1, h2, h3⟩ := Cfg.seconds_toNat hw
  intro i hi
  match i, hi with
  | 0, _ => exact Cfg.defines_addrOf hw .seconds0
  | 1, _ => exact h1 ▸ Cfg.defines_addrOf hw .seconds1
  | 2, _ => exact h2 ▸ Cfg.defines_addrOf hw .seconds2
  | 3, _ => exact h3 ▸ Cfg.defines_addrOf hw .seconds3

/-- The pointer walks through the clock (rules R9, R102). -/
theorem inc_clock {c : Cfg} (hw : c.wellFormed = true) :
    inc c (c.addrOf .seconds0) = c.addrOf .seconds1 ∧ inc c (c.addrOf .seconds1) = c.addrOf .seconds2 ∧
      inc c (c.addrOf .seconds2) = c.addrOf .seconds3 := by
  obtain ⟨h1, h2, h3⟩ := Cfg.seconds_toNat hw
  exact ⟨inc_of_defines (Cfg.defines_addrOf hw _) h1, inc_of_defines (Cfg.defines_addrOf hw _) (by omega),
    inc_of_defines (Cfg.defines_addrOf hw _) (by omega)⟩

/-- The seven steps of write-RTC leave the register file that `SET32` at the clock would (rules R76, R85). -/
theorem steps_writeRtc {s : State} {time : Word32} {rest : List Input} (hw : s.cfg.wellFormed = true)
    (hcap : s.cfg.capGate = .off ∨ s.cfg.capabilityVal &&& s.cfg.capRtc ≠ 0) (hen : s.busEn = true)
    (hp : s.mainPhase = .ready) (hi : s.inputs = (writeRtc s.cfg time).map atBus ++ rest) :
    ∃ t, Steps 7 s t ∧ OnBus (write32 s (s.cfg.addrOf .seconds0) time) .idle 0 rest t := by
  obtain ⟨hinc0, hinc1, hinc2⟩ := inc_clock hw
  have h0 : OnBus s s.bstate s.ptr _ s := ⟨rfl, rfl, hen, hp, rfl, rfl, hi⟩
  obtain ⟨s1, e1, h1⟩ := h0.step_startW
  obtain ⟨s2, e2, h2⟩ := h1.step_rxAddr
  obtain ⟨s3, e3, h3⟩ := h2.step_rxClock hw hcap (by simp) rfl
  obtain ⟨s4, e4, h4⟩ := (hinc0 ▸ h3).step_rxClock hw hcap (by simp) (by simp)
  obtain ⟨s5, e5, h5⟩ := (hinc1 ▸ h4).step_rxClock hw hcap (by simp) (by simp)
  obtain ⟨s6, e6, h6⟩ := (hinc2 ▸ h5).step_rxClock hw hcap (by simp) (by simp)
  obtain ⟨t, e7, h7⟩ := h6.step_stop
  rw [← write32_seconds0 hw] at h7
  exact ⟨t, ⟨s1, e1, s2, e2, s3, e3, s4, e4, s5, e5, s6, e6, t, e7, rfl⟩, h7⟩

/-- Settles O23: the command leaves the register file of a `SET32` at the clock, which reads back. -/
theorem writeRtcOverBusSetsTheClock : Obligations.WriteRtcOverBusSetsTheClock := by
  intro s time rest hw hcap hen hp hi
  obtain ⟨t, hsteps, hon⟩ := steps_writeRtc hw hcap hen hp hi
  have hread : ∀ n, readByte t n = readByte (write32 s (s.cfg.addrOf .seconds0) time) n :=
    readByte_congr hon.cfg hon.reg
  refine ⟨t, hsteps, hon.inputs, hon.bstate, hon.ptr, ?clock, ?frame⟩
  case clock =>
    have hclock : read32 t (s.cfg.addrOf .seconds0) = time := by
      rw [← read32_write32 (s := s) (defines_clock hw) time]
      simp only [read32, hread]
    rw [← hclock]
    rfl
  case frame =>
    intro n hn
    rw [hread, readByte_write32, if_neg fun h => hn 0 (by decide) h.2, if_neg fun h => hn 1 (by decide) h.2,
      if_neg fun h => hn 2 (by decide) h.2, if_neg fun h => hn 3 (by decide) h.2]

end Sys2Proof.Machine
end

section
/-! SUPPORT. The register-store operations (spec/40_register_store_ops.md rules R80 to R87): the words the decoder takes
for them, and what a store of one byte or of four leaves in the register file. -/

namespace Sys2Proof

/-! ## The words (rule R69, decision D29) -/

/-- A read has no data operand. -/
theorem decode_storeOp_read (c : Cfg) (a : Addr) (d : Word32) :
    decode c (.storeOp (0#3 ++ a ++ d)) = .ok (.get8 a) ∧ decode c (.storeOp (4#3 ++ a ++ d)) = .ok (.get32 a) := by
  constructor <;> simp only [decode, decodeStore, storeWord_op, storeWord_addr] <;> rfl

/-- A store of one byte takes its operand from `data[7:0]`, whatever stands above. -/
theorem decode_storeOp_byte (c : Cfg) (a : Addr) (hi : BitVec 24) (v : Byte) :
    decode c (.storeOp (1#3 ++ a ++ (hi ++ v))) = .ok (.set8 a v) ∧
    decode c (.storeOp (2#3 ++ a ++ (hi ++ v))) = .ok (.setMask a v) ∧
    decode c (.storeOp (3#3 ++ a ++ (hi ++ v))) = .ok (.clearMask a v) := by
  refine ⟨?_, ?_, ?_⟩ <;> rw [decode, decodeStore, storeWord_op, storeWord_addr, storeWord_byte] <;> rfl

end Sys2Proof

namespace Sys2Proof.Machine

/-! ## A store of one byte -/

/-- `t` is the state after an operation that stores `v` in cell `n` of `s`, if `n` is in `Defined`, and returns nothing
(rule R46). -/
structure StoresByte (s t : State) (n : Nat) (v : Byte) : Prop where
  frame : t = { s with reg := t.reg, answer := .none }
  stored : s.cfg.defines n = true → readByte t n = v
  dropped : s.cfg.defines n = false → t.reg = s.reg
  others : ∀ k, k ≠ n → readByte t k = readByte s k

theorem storesByte_writeByte (s : State) (n : Nat) (v : Byte) :
    StoresByte s (reply (writeByte s n v) .none) n v where
  frame := by rw [writeByte_eq]; rfl
  stored hd := readByte_writeByte_self hd v
  dropped hu := by rw [reply_reg, writeByte_undefined hu]
  others _ hk := readByte_writeByte_other s hk v

/-- `SET8` then `GET8`: what is stored is what the next read returns. -/
theorem StoresByte.exec_get8 {s t : State} {a : Addr} {v : Byte} (h : StoresByte s t a.toNat v)
    (hd : s.cfg.defines a.toNat = true) :
    exec (.get8 a) t = .next { t with answer := ⟨none, none, some (zext32 v)⟩ } := by
  rw [← h.stored hd]; rfl

/-- Settles O2: the operation is one store of a byte, and `GET8` reads it back. -/
theorem set8StoresByteAndNothingElse : Obligations.Set8StoresByteAndNothingElse := by
  intro s a v hi
  obtain ⟨hdecode, -, -⟩ := decode_storeOp_byte s.cfg a hi v
  have h := storesByte_writeByte s a.toNat v
  exact ⟨hdecode, _, rfl, h.frame, fun hd => ⟨h.stored hd, h.exec_get8 hd⟩, h.dropped, h.others⟩

/-- Settles O3: each operation is one store of the byte it makes of the old one. -/
theorem maskOperationsOrAndAndNotInPlace : Obligations.MaskOperationsOrAndAndNotInPlace := by
  refine ⟨fun s a bits hi => ?setMask, fun s a bits hi => ?clearMask⟩ <;>
    obtain ⟨-, hset, hclear⟩ := decode_storeOp_byte s.cfg a hi bits
  case setMask =>
    have h := storesByte_writeByte s a.toNat (readByte s a.toNat ||| bits)
    exact ⟨hset, _, rfl, h.frame, h.stored, h.dropped, h.others⟩
  case clearMask =>
    have h := storesByte_writeByte s a.toNat (readByte s a.toNat &&& ~~~bits)
    exact ⟨hclear, _, rfl, h.frame, h.stored, h.dropped, h.others⟩

/-! ## Four bytes -/

/-- Byte `i` of a wide read is the cell at the address plus `i` (rule R48). -/
theorem byteOf_read32 (s : State) (a : Addr) : ∀ i, i < 4 → byteOf (read32 s a) i = readByte s (a.toNat + i) := by
  obtain ⟨h0, h1, h2, h3⟩ := byteOf_assemble32 (readByte s a.toNat) (readByte s (a.toNat + 1))
    (readByte s (a.toNat + 2)) (readByte s (a.toNat + 3))
  intro i hi
  match i, hi with
  | 0, _ => exact h0
  | 1, _ => exact h1
  | 2, _ => exact h2
  | 3, _ => exact h3

/-- A sum past 0xFF names no register: the wide accesses do not wrap (decision D20). -/
theorem not_defines_of_gt {c : Cfg} {n : Nat} (h : 0xFF < n) : c.defines n = false :=
  Bool.eq_false_iff.mpr fun hd => Nat.not_lt.mpr (Nat.le_of_lt_succ (defines_lt hd)) h

/-- Settles O5: the four reads byte by byte, each by its own address. -/
theorem get32ReadsFourBytesLittleEndian : Obligations.Get32ReadsFourBytesLittleEndian := by
  intro s a d
  obtain ⟨-, hdecode⟩ := decode_storeOp_read s.cfg a d
  exact ⟨hdecode, read32 s a, rfl, byteOf_read32 s a, fun _ => readByte_undefined, fun _ => not_defines_of_gt⟩

/-- Byte `i` of a wide store lands at the address plus `i`, if that is in `Defined` (rule R85). -/
theorem readByte_write32_byte (s : State) (a : Addr) (v : Word32) :
    ∀ i, i < 4 → s.cfg.defines (a.toNat + i) = true → readByte (write32 s a v) (a.toNat + i) = byteOf v i := by
  intro i hi hd
  rw [readByte_write32]
  match i, hi with
  | 0, _ => exact if_pos ⟨hd, rfl⟩
  | 1, _ => simp [hd]
  | 2, _ => simp [hd]
  | 3, _ => simp [hd]

/-- A wide store leaves a cell alone that is none of its four, or is not in `Defined`. -/
theorem readByte_write32_other (s : State) (a : Addr) (v : Word32) {n : Nat}
    (h : ∀ i, i < 4 → s.cfg.defines n = true → n ≠ a.toNat + i) : readByte (write32 s a v) n = readByte s n := by
  have hn : ∀ i, i < 4 → ¬(s.cfg.defines n = true ∧ n = a.toNat + i) := fun i hi ⟨hd, he⟩ => h i hi hd he
  have h0 := hn 0 (by decide)
  rw [Nat.add_zero] at h0
  rw [readByte_write32, if_neg h0, if_neg (hn 1 (by decide)), if_neg (hn 2 (by decide)), if_neg (hn 3 (by decide))]

/-- Settles O6: the word is the encoder's own; each byte by its address, and the four together read back. -/
theorem set32StoresFourBytesLittleEndian : Obligations.Set32StoresFourBytesLittleEndian := by
  intro s a v
  refine ⟨decodeOfEncodeIsIdentity s.cfg (.set32 a v) rfl, _, rfl, exec_storeOp_frame (i := .set32 a v) rfl rfl,
    readByte_write32_byte s a v, ?readBack, fun _ => readByte_write32_other s a v⟩
  case readBack =>
    intro hd
    have hread : read32 (reply (write32 s a v) .none) a = v := read32_write32 hd v
    exact congrArg (fun w => Host.Outcome.next (reply (reply (write32 s a v) .none) (dataAnswer w))) hread

/-! ## The bus port -/

/-- Settles O9: an accepted byte is an ordinary store of one byte, any other byte leaves the state alone. -/
theorem busWrite8StoresAcceptedByte : Obligations.BusWrite8StoresAcceptedByte := by
  intro s a v
  refine ⟨reply (busStore s a v) .none, rfl, ?_⟩
  by_cases haccept : accept s.cfg a v = true
  case pos =>
    have h := storesByte_writeByte s a.toNat v
    rw [busStore, if_pos haccept]
    exact ⟨h.frame, fun ⟨hd, _⟩ => h.stored hd, fun hu => h.dropped (hu.resolve_right (by simp [haccept])), h.others⟩
  case neg =>
    rw [busStore, if_neg haccept]
    exact ⟨rfl, fun ⟨_, hyes⟩ => absurd hyes haccept, fun _ => rfl, fun _ _ => rfl⟩

/-! ## The byte reads -/

/-- `GET8` on a register, and `BUS_READ8`, which is the same operation on the bus port (rules R80, R87). -/
theorem exec_byteRead (s : State) (a : Addr) :
    exec (.get8 a) s = .next (reply s (dataAnswer (zext32 (readByte s a.toNat)))) ∧
      exec (.busRead8 a) s = exec (.get8 a) s :=
  ⟨rfl, rfl⟩

/-- Settles O1: the read returns through the answer alone. -/
theorem get8ReturnsRegisterByte : Obligations.Get8ReturnsRegisterByte := by
  intro s a d
  obtain ⟨hdecode, -⟩ := decode_storeOp_read s.cfg a d
  obtain ⟨hget, -⟩ := exec_byteRead s a
  exact ⟨hdecode, hget, readByte_undefined⟩

/-- Settles O8: the two ports read through `readByte`, and `BUS_TX_DATA` sends the byte read at the pointer. -/
theorem busRead8IsGet8 : Obligations.BusRead8IsGet8 := by
  intro s a
  obtain ⟨hget, hbus⟩ := exec_byteRead s a
  exact ⟨hbus, hbus.trans hget, readByte_undefined, _, _, rfl, rfl, rfl⟩

end Sys2Proof.Machine
end

section
/-! SUPPORT. The bus slave (spec/41_bus_slave_protocol.md rules R90 to R107): what each event selects, what each operation
does, the pointer, and the reads of the bus master. -/

namespace Sys2Proof.Machine

/-! ## The transition function (rule R90) -/

/-- A start condition selects, by its address byte, an operation whose demand on that byte it meets (rules R62, R91 to
R93). -/
theorem startInstr_wellFormed (c : Cfg) (ab : Byte) :
    Instr.wellFormed c
      (if ownAddress c ab then if ab.getLsbD 0 then .busStartR ab else .busStartW ab else .busStartOther ab) = true := by
  cases hown : ownAddress c ab with
  | false => exact bne_iff_ne.mpr (beq_eq_false_iff_ne.mp hown)
  | true =>
    have hbyte := (addressByte_eq _ _).mpr (beq_iff_eq.mp hown)
    cases hdir : ab.getLsbD 0 <;> rw [hdir] at hbyte <;> exact beq_iff_eq.mpr hbyte

/-- The operation a bus event selects has the address byte it demands: `own` and `dir` of the BUS_DEC word are those of
the event's own payload (rule R78). -/
theorem decodeBus_busWord_wellFormed (s : State) (w : BitVec 10) :
    (decodeBus (busWord s w) (busEventPayload w)).wellFormed s.cfg = true := by
  rw [busWord, decodeBus_eq]
  split
  case isTrue => rfl
  case isFalse =>
    split
    case isTrue hstart => rw [hstart]; exact startInstr_wellFormed s.cfg (busEventPayload w)
    case isFalse =>
      split
      case isTrue => cases s.bstate <;> rfl
      case isFalse =>
        split
        case isTrue => cases s.bstate <;> rfl
        case isFalse => rfl

/-- No bus event is rejected: it decodes to the operation its BUS_DEC word selects. -/
theorem decode_busEvent_eq (s : State) (w : BitVec 10) :
    decode s.cfg (eventWord s (.bus w)) = .ok (decodeBus (busWord s w) (busEventPayload w)) :=
  decode_busDec_of_wellFormed rfl (decodeBus_busWord_wellFormed s w)

/-- Settles O12: no bus event is rejected, and the table of the BUS_DEC word is that of rule R90 once `own` and `dir` are
read off the address byte. -/
theorem busEventSelectsOperation : Obligations.BusEventSelectsOperation := by
  intro s bev p
  rw [decode_busEvent_eq, busWord, busEvent_kind, busEvent_payload, decodeBus_eq]
  by_cases hstart : bev = 0
  case pos => simp [hstart, ownAddress]
  case neg =>
    cases s.bstate <;> simp only [if_neg hstart]

/-! ## The operations -/

/-- Settles O11: both put the slave in `Idle` at pointer 0 and differ in `bus_en` alone. -/
theorem busStartsAndStopsIdleAtZero : Obligations.BusStartsAndStopsIdleAtZero :=
  fun _ => ⟨rfl, rfl⟩

/-- Settles O13: the two starts differ in the state they lead to; neither meaning names the pointer. -/
theorem ownStartSelectsDirectionAndKeepsPointer : Obligations.OwnStartSelectsDirectionAndKeepsPointer :=
  fun _ _ => ⟨rfl, rfl⟩

/-- Settles O14: both end the transaction; they differ in the answer. -/
theorem stopAndForeignStartClearPointer : Obligations.StopAndForeignStartClearPointer :=
  fun _ _ => ⟨rfl, rfl⟩

/-- Settles O15: the event is a received byte in `AddressSelect`. -/
theorem rxAddrLoadsPointer : Obligations.RxAddrLoadsPointer :=
  fun _ b => ⟨fun hen hb => decode_evRx_addressSelect hen hb b, rfl⟩

/-- Settles O17: the byte is read before the pointer advances. -/
theorem txDataSendsRegisterAndAdvances : Obligations.TxDataSendsRegisterAndAdvances :=
  fun _ => rfl

/-- Settles O18: the byte of a request that is not served is the draw. -/
theorem outOfOrderBusEventsAreAbsorbed : Obligations.OutOfOrderBusEventsAreAbsorbed :=
  fun s _ => ⟨rfl, rfl, ⟨Config.freeByte s.draws, rfl⟩, ⟨Config.freeByte s.draws, rfl⟩, Config.freeByte s.draws, rfl⟩

/-- Settles O16: the register file is the one `BUS_WRITE8` at the pointer leaves, so its clauses are those of O9. -/
theorem rxDataStoresAtPointerAndAdvances : Obligations.RxDataStoresAtPointerAndAdvances := by
  intro s b
  obtain ⟨u, hwrite, hframe, hstored, hdropped, hothers⟩ := busWrite8StoresAcceptedByte s s.ptr b
  refine ⟨fun hen hb => decode_evRx_writing hen hb b, _, rfl, ?frame, ?clauses⟩
  case frame => rw [busStore_eq]; rfl
  case clauses =>
    generalize ht : reply (advancePtr (busStore (deliver s) s.ptr b)) (ackAnswer true) = t
    have hreg : t.reg = u.reg := by
      cases hwrite
      rw [← ht]
      exact busStore_reg_congr (s := s) (t := deliver s) rfl rfl s.ptr b
    have hcfg : t.cfg = u.cfg := by
      rw [← ht, hframe]
      simp
    have hread : ∀ n, readByte t n = readByte u n := readByte_congr hcfg hreg
    exact ⟨⟨u, hwrite, hreg⟩, fun h => (hread _).trans (hstored h), fun h => hreg.trans (hdropped h),
      fun n hn => (hread n).trans (hothers n hn)⟩

/-! ## The pointer (rule R102) -/

/-- `LAST` is itself an address of `Defined`. -/
theorem exists_addr_eq_lastAddr {c : Cfg} (h : c.regs ≠ []) : ∃ d ∈ c.regs, d.addr = lastAddr c := by
  unfold lastAddr
  generalize c.regs = l at h
  induction l with
  | nil => exact absurd rfl h
  | cons d l ih =>
    rw [List.foldr_cons]
    split
    case isTrue => exact ⟨d, List.mem_cons_self, rfl⟩
    case isFalse hle =>
      cases l with
      | nil => exact ⟨d, List.mem_cons_self, (BitVec.le_zero_iff).mp (BitVec.not_lt.mp hle)⟩
      | cons e l =>
        obtain ⟨d', hmem, heq⟩ := ih (List.cons_ne_nil e l)
        exact ⟨d', List.mem_cons_of_mem d hmem, heq⟩

theorem inc_of_last_le {c : Cfg} {p : Addr} (h : (lastAddr c).toNat ≤ p.toNat) : inc c p = 0 :=
  if_pos (BitVec.le_def.mpr h)

theorem inc_toNat_of_lt_last {c : Cfg} {p : Addr} (h : p.toNat < (lastAddr c).toNat) :
    (inc c p).toNat = p.toNat + 1 := by
  have hlast := (lastAddr c).isLt
  rw [inc, if_neg fun hle => Nat.not_le.mpr h (BitVec.le_def.mp hle), BitVec.toNat_add,
    show BitVec.toNat (1 : Addr) = 1 from rfl]
  omega

theorem inc_le_last (c : Cfg) (p : Addr) : (inc c p).toNat ≤ (lastAddr c).toNat := by
  rcases Nat.lt_or_ge p.toNat (lastAddr c).toNat with h | h
  · rw [inc_toNat_of_lt_last h]; exact h
  · rw [inc_of_last_le h]; exact Nat.zero_le _

/-- From 0 the pointer counts up to `LAST`. -/
theorem inc_iterate_toNat (c : Cfg) {n : Nat} (h : n ≤ (lastAddr c).toNat) : ((inc c)^[n] 0).toNat = n := by
  induction n with
  | zero => rfl
  | succ n ih =>
    have hn := ih (Nat.le_of_succ_le h)
    rw [Function.iterate_succ_apply', inc_toNat_of_lt_last (by omega), hn]

/-- Settles O19: `LAST` is the maximum of `Defined`, and the pointer counts from 0 to `LAST`, where the next wraps. -/
theorem pointerIncrementWrapsPastLast : Obligations.PointerIncrementWrapsPastLast := by
  intro c p
  refine ⟨fun _ hr => BitVec.le_def.mp (le_lastAddr hr), exists_addr_eq_lastAddr, inc_of_last_le, inc_toNat_of_lt_last,
    inc_le_last c p, ?cycle⟩
  case cycle =>
    rw [Function.iterate_succ_apply']
    exact inc_of_last_le (inc_iterate_toNat c (Nat.le_refl _)).ge

/-! ## The reads of the bus master (rules R97, R105, R107) -/

/-- A start condition for this slave, to read (rule R92). -/
theorem decode_evStartR {s : State} {c : Cfg} (hc : s.cfg = c) (hen : s.busEn = true) :
    decode s.cfg (eventWord s (.bus (evStartR c))) = .ok (.busStartR (c.slaveAddr ++ 1#1)) := by
  subst hc
  have hdir : (s.cfg.slaveAddr ++ 1#1 : Byte).getLsbD 0 = true := by
    rw [BitVec.getLsbD_append]; rfl
  have hown : (s.cfg.slaveAddr ++ 1#1 : Byte).extractLsb' 1 7 = s.cfg.slaveAddr := by
    rw [← addressByte_eq, hdir]; rfl
  rw [evStartR, busEventSelectsOperation, hown, hdir]
  simp [hen]

/-- A byte request while the slave sends (rule R97). -/
theorem decode_evTx_reading {s : State} (hen : s.busEn = true) (hb : s.bstate = .reading) :
    decode s.cfg (eventWord s (.bus evTx)) = .ok .busTxData := by
  rw [show evTx = 2#2 ++ (0 : Byte) from rfl, busEventSelectsOperation, hen, hb]
  rfl

section
variable {r s : State} {b : BState} {p : Addr} {is : List Input}

/-- A machine between two iterations with its bus enabled stands in a transaction over its own register file. -/
theorem OnBus.self (hen : s.busEn = true) (hp : s.mainPhase = .ready) (hi : s.inputs = is) :
    OnBus s s.bstate s.ptr is s :=
  ⟨rfl, rfl, hen, hp, rfl, rfl, hi⟩

/-- A read start for this slave keeps the pointer (rule R92). -/
theorem OnBus.step_startR (h : OnBus r b p (atBus (evStartR r.cfg) :: is) s) :
    ∃ t, step s = .next t ∧ OnBus r .reading p is t := by
  refine ⟨_, h.step_eq (decode_evStartR h.cfg h.busEn) rfl, ?_⟩
  exact ⟨h.cfg, h.reg, h.busEn, h.phase, rfl, h.ptr, rfl⟩

/-- A byte request sends the register at the pointer, which advances (rule R97). -/
theorem OnBus.step_txData (h : OnBus r .reading p (atBus evTx :: is) s) :
    ∃ t, step s = .next t ∧ t.answer.txByte = some (readByte r p.toNat) ∧ OnBus r .reading (inc r.cfg p) is t := by
  refine ⟨_, h.step_eq (decode_evTx_reading h.busEn h.bstate) rfl, ?sent, ?stands⟩
  case sent =>
    rw [← h.ptr]
    exact congrArg some (readByte_congr h.cfg h.reg _)
  case stands =>
    refine ⟨h.cfg, h.reg, h.busEn, h.phase, h.bstate, ?_, rfl⟩
    rw [← h.cfg, ← h.ptr]
    rfl

/-- `n + 1` byte requests walk the pointer through the registers; each sends the one it stood at. -/
theorem OnBus.steps_txData (n : Nat) (h : OnBus r .reading p (List.replicate (n + 1) (atBus evTx) ++ is) s) :
    ∃ t, Steps (n + 1) s t ∧ t.answer.txByte = some (readByte r ((inc r.cfg)^[n] p).toNat) ∧
      OnBus r .reading ((inc r.cfg)^[n + 1] p) is t := by
  induction n generalizing s p with
  | zero =>
    obtain ⟨t, hstep, hbyte, hon⟩ := h.step_txData
    exact ⟨t, ⟨t, hstep, rfl⟩, hbyte, hon⟩
  | succ n ih =>
    obtain ⟨u, hstep, -, hon⟩ := h.step_txData
    obtain ⟨t, hsteps, hlast⟩ := ih hon
    exact ⟨t, ⟨u, hstep, hsteps⟩, hlast⟩

end

/-- Settles O20: the write loads the pointer, the restart keeps it, and the request reads there. -/
theorem restartReadsSelectedRegister : Obligations.RestartReadsSelectedRegister := by
  intro s ra rest hen hp hi
  obtain ⟨a, ea, ha⟩ := (OnBus.self hen hp hi).step_startW
  obtain ⟨b, eb, hb⟩ := ha.step_rxAddr
  obtain ⟨c, ec, hc⟩ := hb.step_startR
  obtain ⟨t, et, hbyte, ht⟩ := hc.step_txData
  exact ⟨a, b, c, t, ea, eb, ec, et, hbyte, ht.bstate, ht.ptr, ht.reg, ht.inputs⟩

/-- Settles O21: the stop clears the pointer that the write loaded. -/
theorem stopThenReadReadsAddressZero : Obligations.StopThenReadReadsAddressZero := by
  intro s ra rest hen hp hi
  obtain ⟨a, ea, ha⟩ := (OnBus.self hen hp hi).step_startW
  obtain ⟨b, eb, hb⟩ := ha.step_rxAddr
  obtain ⟨c, ec, hc⟩ := hb.step_stop
  obtain ⟨d, ed, hd⟩ := hc.step_startR
  obtain ⟨t, et, hbyte, ht⟩ := hd.step_txData
  exact ⟨a, b, c, d, t, ea, eb, ec, ed, et, hbyte, ht.bstate, ht.ptr, ht.reg, ht.inputs⟩

/-- Settles O22: by induction over the requests, from the machine's own transaction. -/
theorem streamedReadWalksTheRegisters : Obligations.StreamedReadWalksTheRegisters := by
  intro n s rest hen hp hb hi
  have h0 := OnBus.self hen hp hi
  rw [hb] at h0
  obtain ⟨t, hsteps, hbyte, ht⟩ := h0.steps_txData
  exact ⟨t, hsteps, hbyte, ht.ptr, ht.bstate, ht.reg, ht.inputs⟩

end Sys2Proof.Machine
end

section
/-! SUPPORT. The rows of `step` (spec/42_power_controller.md rules R110 to R126, R133, R136): which row a state selects,
as a relation to split on, and what each row writes, emits and reads. -/

namespace Sys2Proof

/-! ## The words of the rows (rule R68) -/

/-- A word that fits the match and mask of a row selects that row, and no other. -/
theorem decodeStep_of_mem {m k sw : BitVec 5} {r : StepRow} (hrow : (m, k, r) ∈ stepTable) (h : sw &&& k = m) :
    decodeStep sw = r := by
  have hsel : r ∈ stepRowsOf sw := List.mem_map.mpr ⟨_, List.mem_filter.mpr ⟨hrow, beq_iff_eq.mpr h⟩, rfl⟩
  rw [stepRowsOf_eq] at hsel
  exact (List.mem_singleton.mp hsel).symm

theorem decode_stepDec_of_mem (c : Cfg) {m k sw : BitVec 5} {r : StepRow} (hrow : (m, k, r) ∈ stepTable)
    (h : sw &&& k = m) : decode c (.stepDec sw) = .ok r.instr :=
  congrArg (fun r : StepRow => Except.ok r.instr) (decodeStep_of_mem hrow h)

end Sys2Proof

namespace Sys2Proof.Machine

/-! ## The row that a state selects -/

/-- The transition table of rule R110, made total: the rows with the state and the level that each names. -/
inductive Selected (s : State) : StepRow → Prop where
  | initUp (hp : s.pstate = .init) (hrail : s.railGood = true) : Selected s .initUp
  | initDown (hp : s.pstate = .init) (hrail : s.railGood = false) : Selected s .initDown
  | clearMaskPg (hp : s.pstate = .clearMask) (hpower : s.powerGood = true) : Selected s .clearMaskPg
  | clearMaskNoPg (hp : s.pstate = .clearMask) (hpower : s.powerGood = false) : Selected s .clearMaskNoPg
  | offHold (hp : s.pstate = .off) (hpower : s.powerGood = false) : Selected s .offHold
  | offPg (hp : s.pstate = .off) (hpower : s.powerGood = true) : Selected s .offPg
  | offPgDrop (hp : s.pstate = .offPowerGood) (hpower : s.powerGood = false) : Selected s .offPgDrop
  | offPgHold (hp : s.pstate = .offPowerGood) (hpower : s.powerGood = true) : Selected s .offPgHold
  | onHold (hp : s.pstate = .on) (hrail : s.railGood = true) : Selected s .onHold
  | ponDone (hp : s.pstate = .poweringOn) (hrail : s.railGood = true) : Selected s .ponDone
  | ponRetry (hp : s.pstate = .poweringOn) (hrail : s.railGood = false) : Selected s .ponRetry
  | poff (hp : s.pstate = .poweringOff) : Selected s .poff
  | onFail (hp : s.pstate = .on) (hrail : s.railGood = false) : Selected s .onFail
  | unkUp (hp : s.pstate = .unknown) (hrail : s.railGood = true) : Selected s .unkUp
  | unkDown (hp : s.pstate = .unknown) (hrail : s.railGood = false) : Selected s .unkDown

/-- The decoder's row is one of the table. -/
theorem selected_selectedRow (s : State) : Selected s (selectedRow s) := by
  rw [selectedRow_eq]
  cases hp : s.pstate with
  | init =>
    cases hrail : s.railGood with
    | true => exact .initUp hp hrail
    | false => exact .initDown hp hrail
  | clearMask =>
    cases hpower : s.powerGood with
    | true => exact .clearMaskPg hp hpower
    | false => exact .clearMaskNoPg hp hpower
  | off =>
    cases hpower : s.powerGood with
    | true => exact .offPg hp hpower
    | false => exact .offHold hp hpower
  | offPowerGood =>
    cases hpower : s.powerGood with
    | true => exact .offPgHold hp hpower
    | false => exact .offPgDrop hp hpower
  | poweringOn =>
    cases hrail : s.railGood with
    | true => exact .ponDone hp hrail
    | false => exact .ponRetry hp hrail
  | poweringOff => exact .poff hp
  | on =>
    cases hrail : s.railGood with
    | true => exact .onHold hp hrail
    | false => exact .onFail hp hrail
  | unknown =>
    cases hrail : s.railGood with
    | true => exact .unkUp hp hrail
    | false => exact .unkDown hp hrail

/-- The table has one row for each state and levels, and the decoder takes it. -/
theorem Selected.selectedRow_eq {s : State} {r : StepRow} (h : Selected s r) : selectedRow s = r := by
  rw [Sys2Proof.selectedRow_eq]
  cases h <;> simp [*]

/-- STEP does what the operation of the selected row does (rule R111). -/
theorem Selected.exec_step {s : State} {r : StepRow} (h : Selected s r) : exec .step s = exec r.instr s := by
  rw [exec_rowInstr, ← h.selectedRow_eq]
  rfl

/-- Settles O33: the row is the decoder's, which `selectedRow_eq` gives by state and level. -/
theorem stepPerformsTheSelectedRow : Obligations.StepPerformsTheSelectedRow := by
  intro s
  refine ⟨selectedRow s, _, stepRowsOf_eq _, rfl, exec_rowInstr _ s, ?_⟩
  rw [selectedRow_eq]
  cases s.pstate <;> cases s.railGood <;> cases s.powerGood <;> rfl

/-! ## The rows that move `pstate` alone, and the rows of the rail -/

/-- Settles O25: the words by the table, the rows by their meaning, STEP by the row that the rail selects. -/
theorem initAndUnknownRowsFollowRail : Obligations.InitAndUnknownRowsFollowRail := by
  intro s sw
  refine ⟨decode_stepDec_of_mem s.cfg (r := .initUp) (by decide), decode_stepDec_of_mem s.cfg (r := .initDown) (by decide),
    decode_stepDec_of_mem s.cfg (r := .unkUp) (by decide), decode_stepDec_of_mem s.cfg (r := .unkDown) (by decide),
    rfl, rfl, rfl, rfl, ?_⟩
  rintro (hp | hp) <;> split
  · next hrail => exact (Selected.initUp hp hrail).exec_step
  · next hrail => exact (Selected.initDown hp (Bool.eq_false_iff.mpr hrail)).exec_step
  · next hrail => exact (Selected.unkUp hp hrail).exec_step
  · next hrail => exact (Selected.unkDown hp (Bool.eq_false_iff.mpr hrail)).exec_step

/-- Settles O26: the two rows, and the states and levels that select them. -/
theorem dropAndFailRowsMoveStateOnly : Obligations.DropAndFailRowsMoveStateOnly :=
  fun s _ => ⟨decode_stepDec_of_mem s.cfg (r := .offPgDrop) (by decide),
    decode_stepDec_of_mem s.cfg (r := .onFail) (by decide), rfl, rfl,
    fun hp hpower => (Selected.offPgDrop hp hpower).exec_step, fun hp hrail => (Selected.onFail hp hrail).exec_step⟩

/-- Settles O27: the meaning of a hold row is the identity, up to the answer. -/
theorem holdRowsChangeNothing : Obligations.HoldRowsChangeNothing :=
  fun _ => ⟨rfl, rfl, rfl⟩

/-- Settles O30: the row's three micro-operations, in one record. -/
theorem poweredOnStartsBusAndMasksStarts : Obligations.PoweredOnStartsBusAndMasksStarts :=
  fun _ => rfl

/-- Settles O31: the row, and the state and level that select it. -/
theorem poweringOnRetriesRail : Obligations.PoweringOnRetriesRail :=
  fun s _ => ⟨decode_stepDec_of_mem s.cfg (r := .ponRetry) (by decide), rfl,
    fun hp hrail => (Selected.ponRetry hp hrail).exec_step⟩

/-- Settles O32: the row's three micro-operations, in one record. -/
theorem poweringOffStopsBusAndRail : Obligations.PoweringOffStopsBusAndRail :=
  fun _ => rfl

/-! ## ClearMask -/

/-- Settles O28: both rows are `leaveClearMask` but for the next state. -/
theorem clearMaskRowsArmAndClear : Obligations.ClearMaskRowsArmAndClear := by
  intro s
  refine ⟨_, _, rfl, rfl, ?frame, rfl, ?cleared, ?others⟩
  case frame => rw [runRow, leaveClearMask_eq]; rfl
  case cleared => exact (readByte_leaveClearMask s 0x05).trans (if_pos rfl)
  case others => exact fun n hn => (readByte_leaveClearMask s n).trans (if_neg hn)

/-! ## The start-event handler -/

/-- Both tests passed, the handler powers on; else it leaves `pstate` (rule R128). -/
theorem handleStart_pstate (s : State) (reason : Byte) :
    (handleStart s reason).pstate =
      if startAdmitted s.pstate reason (readReg s .startEnable) = true then .poweringOn else s.pstate := by
  rcases handleStart_cases s reason with ⟨h, e⟩ | ⟨h, e⟩ <;> rw [e, h] <;> rfl

theorem handleStart_of_refused {s : State} {reason : Byte}
    (h : startAdmitted s.pstate reason (readReg s .startEnable) = false) : handleStart s reason = s :=
  if_neg (by simp [h])

/-- The handler is inert outside the two off states. -/
theorem handleStart_of_not_off {s : State} (hoff : s.pstate ≠ .off) (hpg : s.pstate ≠ .offPowerGood) (reason : Byte) :
    handleStart s reason = s :=
  handleStart_of_refused (Bool.eq_false_iff.mpr fun h => (startAdmitted_iff.mp h).1.elim hoff hpg)

theorem readByte_handleStart_of_admitted {s : State} {reason : Byte}
    (h : startAdmitted s.pstate reason (readReg s .startEnable) = true) (hd : s.cfg.defines 0x05 = true) :
    readByte (handleStart s reason) 0x05 = readByte s 0x05 ||| reason :=
  (readByte_handleStart s reason 0x05).trans (if_pos ⟨h, rfl, hd⟩)

theorem readByte_handleStart_other (s : State) (reason : Byte) {n : Nat} (hn : n ≠ 0x05) :
    readByte (handleStart s reason) n = readByte s n :=
  (readByte_handleStart s reason n).trans (if_neg fun h => hn h.2.1)

/-- Settles O38: the two tests are `startAdmitted`, and the handler's effects are its two cases. -/
theorem startEventNeedsStateAndEnabledReason : Obligations.StartEventNeedsStateAndEnabledReason := by
  intro s reason
  refine ⟨_, rfl, ?frame, fun h => ?admitted, fun h => ?refused, fun n hn => readByte_handleStart_other s reason hn⟩
  case frame => exact congrArg (reply · .none) (handleStart_eq s reason)
  case admitted =>
    have hadm := startAdmitted_iff.mpr h
    exact ⟨(handleStart_pstate s reason).trans (if_pos hadm), readByte_handleStart_of_admitted hadm⟩
  case refused =>
    have href := handleStart_of_refused (Bool.eq_false_iff.mpr (mt startAdmitted_iff.mp h))
    rw [href]
    exact ⟨rfl, rfl⟩

/-- Settles O29: the row writes `OffPowerGood` first, so the handler's test of the state passes and `START_ENABLE`
decides. -/
theorem offRowWithPowerGoodRequestsStart : Obligations.OffRowWithPowerGoodRequestsStart := by
  intro s
  obtain ⟨t, hexec, hframe, hadmitted, hrefused, hothers⟩ :=
    startEventNeedsStateAndEnabledReason { s with pstate := .offPowerGood } startPwrGood
  have hcomm : startPwrGood &&& readReg s .startEnable = readReg s .startEnable &&& 0x04 := BitVec.and_comm _ _
  refine ⟨t, hexec, hframe, fun h => ?_, fun h => ?_, hothers⟩
  · exact hadmitted ⟨.inr rfl, hcomm ▸ h⟩
  · exact hrefused fun hadm => hadm.2 (hcomm.trans h)

/-! ## Self-loops (rule R133) -/

/-- The state and the level select a hold row or the retry row. -/
def SelfLoop (s : State) : Prop :=
  (s.pstate = .off ∧ s.powerGood = false) ∨ (s.pstate = .offPowerGood ∧ s.powerGood = true) ∨
    (s.pstate = .on ∧ s.railGood = true) ∨ (s.pstate = .poweringOn ∧ s.railGood = false)

/-- On a self-loop `step` actuates the rail once more in `PoweringOn`, and changes nothing elsewhere. -/
theorem stepOnce_of_selfLoop {s : State} (hloop : SelfLoop s) :
    stepOnce s = if s.pstate = .poweringOn then actuateRailOn s else s := by
  unfold stepOnce
  rcases hloop with ⟨hp, hl⟩ | ⟨hp, hl⟩ | ⟨hp, hl⟩ | ⟨hp, hl⟩
  · rw [(Selected.offHold hp hl).selectedRow_eq, if_neg (by simp [hp])]; rfl
  · rw [(Selected.offPgHold hp hl).selectedRow_eq, if_neg (by simp [hp])]; rfl
  · rw [(Selected.onHold hp hl).selectedRow_eq, if_neg (by simp [hp])]; rfl
  · rw [(Selected.ponRetry hp hl).selectedRow_eq, if_pos hp]; rfl

/-- Every other row moves `pstate`. -/
theorem Selected.pstate_ne {s : State} {r : StepRow} (h : Selected s r) (hloop : ¬ SelfLoop s) :
    (runRow s r).pstate ≠ s.pstate := by
  cases h with
  | offHold hp hl | offPgHold hp hl | onHold hp hl | ponRetry hp hl => exact absurd (by simp [SelfLoop, hp, hl]) hloop
  | offPg hp =>
    rw [runRow, handleStart_pstate, hp]
    split <;> simp
  | _ => simp [runRow, *]

/-- A row is one state's. -/
theorem Selected.pstate_eq {s t : State} {r : StepRow} (hs : Selected s r) (ht : Selected t r) :
    t.pstate = s.pstate := by
  cases hs <;> cases ht <;> simp [*]

/-- Settles O34: a self-loop row leaves what selects it; any other moves `pstate`, and a row is one state's. -/
theorem stepIdempotentOnSelfLoops : Obligations.StepIdempotentOnSelfLoops := by
  intro s
  refine ⟨_, _, rfl, rfl, ?_⟩
  split
  case isTrue hloop =>
    by_cases hp : s.pstate = .poweringOn
    case pos =>
      have hstep : stepOnce s = actuateRailOn s := (stepOnce_of_selfLoop hloop).trans (if_pos hp)
      have hagain : stepOnce (reply (actuateRailOn s) .none) = actuateRailOn (reply (actuateRailOn s) .none) :=
        (stepOnce_of_selfLoop (s := reply (actuateRailOn s) .none) hloop).trans (if_pos hp)
      rw [hstep, hagain, if_pos hp]
      exact ⟨rfl, rfl, rfl, List.append_assoc _ _ _⟩
    case neg =>
      have hstep : stepOnce s = s := (stepOnce_of_selfLoop hloop).trans (if_neg hp)
      have hagain : stepOnce (reply s .none) = reply s .none :=
        (stepOnce_of_selfLoop (s := reply s .none) hloop).trans (if_neg hp)
      rw [hstep, hagain, if_neg hp]
      exact ⟨rfl, rfl, rfl, (List.append_nil _).symm⟩
  case isFalse hloop =>
    have hs := selected_selectedRow s
    rw [stepRowsOf_eq, stepRowsOf_eq]
    intro hrows
    have hrow : selectedRow (reply (stepOnce s) .none) = selectedRow s := List.singleton_inj.mp hrows
    have ht : Selected (reply (stepOnce s) .none) (selectedRow s) := hrow ▸ selected_selectedRow _
    have hsame := hs.pstate_eq ht
    exact hs.pstate_ne hloop hsame

/-! ## What the rows write and emit (rule R136) -/

/-- The output events of a row (rules R114, R115, R122, R123). -/
def rowEvents (s : State) : StepRow → List OutEvent
  | .clearMaskPg | .clearMaskNoPg =>
    [.armCountdown (readReg s .restartHours) (readReg s .restartMinutes) (readReg s .restartSeconds)]
  | .ponRetry => [.railOn]
  | .poff => [.railOff]
  | _ => []

theorem runRow_trace (s : State) (r : StepRow) : (runRow s r).trace = s.trace ++ rowEvents s r := by
  cases r with
  | clearMaskPg | clearMaskNoPg => exact leaveClearMask_trace s
  | offPg => simp [runRow, rowEvents]
  | ponRetry | poff => rfl
  | _ => exact (List.append_nil _).symm

/-- A row writes no cell but `START_REASON`. -/
theorem readByte_runRow_other (s : State) (r : StepRow) {n : Nat} (hn : n ≠ 0x05) :
    readByte (runRow s r) n = readByte s n := by
  cases r with
  | clearMaskPg | clearMaskNoPg => exact (readByte_leaveClearMask s n).trans (if_neg hn)
  | offPg => exact readByte_handleStart_other { s with pstate := .offPowerGood } startPwrGood hn
  | _ => rfl

theorem Selected.of_railOn {s : State} {r : StepRow} (h : Selected s r) (he : .railOn ∈ rowEvents s r) :
    s.pstate = .poweringOn := by
  cases h with
  | ponRetry hp => exact hp
  | _ => simp [rowEvents] at he

theorem Selected.of_railOff {s : State} {r : StepRow} (h : Selected s r) (he : .railOff ∈ rowEvents s r) :
    s.pstate = .poweringOff := by
  cases h with
  | poff hp => exact hp
  | _ => simp [rowEvents] at he

/-- Of the rows only two write `bus_en`. -/
theorem Selected.of_busEn_ne {s : State} {r : StepRow} (h : Selected s r) (hne : (runRow s r).busEn ≠ s.busEn) :
    s.pstate = .poweringOn ∧ s.railGood = true ∨ s.pstate = .poweringOff := by
  cases h with
  | ponDone hp hrail => exact .inl ⟨hp, hrail⟩
  | poff hp => exact .inr hp
  | clearMaskPg | clearMaskNoPg | offPg => simp [runRow] at hne
  | _ => exact absurd rfl hne

/-- Settles O35: the frame of a `step` evaluation, and what its row writes and emits. -/
theorem stepWritesOnlyStartReason : Obligations.StepWritesOnlyStartReason := by
  intro s
  have hs := selected_selectedRow s
  have htrace : (stepOnce s).trace = s.trace ++ rowEvents s (selectedRow s) := runRow_trace s _
  refine ⟨_, rowEvents s (selectedRow s), rfl, ?frame, fun n hn => readByte_runRow_other s _ hn, hs.of_railOn,
    hs.of_railOff, hs.of_busEn_ne⟩
  case frame =>
    rw [← htrace]
    exact congrArg (reply · .none) (stepOnce_eq s)

/-! ## What the rows read (rule R136)

`s` and `{ s with reg := m }` are two states that agree outside the register file. -/

/-- Two outcomes that differ in registers other than `START_REASON` at most. -/
structure AlikeButRegisters (t t' : State) : Prop where
  frame : t' = { t with reg := t'.reg }
  reason : readReg t' .startReason = readReg t .startReason

theorem AlikeButRegisters.withPstate {t t' : State} (h : AlikeButRegisters t t') (p : PState) :
    AlikeButRegisters { t with pstate := p } { t' with pstate := p } :=
  ⟨congrArg (fun u : State => { u with pstate := p }) h.frame, h.reason⟩

/-- The handler reads `START_ENABLE` and `START_REASON` alone (rule R128). -/
theorem handleStart_alike {s : State} {m : Memory} (reason : Byte)
    (henable : readReg { s with reg := m } .startEnable = readReg s .startEnable)
    (hreason : readReg { s with reg := m } .startReason = readReg s .startReason) :
    AlikeButRegisters (handleStart s reason) (handleStart { s with reg := m } reason) where
  frame := by
    have hpstate : (handleStart { s with reg := m } reason).pstate = (handleStart s reason).pstate := by
      rw [handleStart_pstate, handleStart_pstate, henable]
    rw [handleStart_eq s, ← hpstate]
    exact handleStart_eq { s with reg := m } reason
  reason := by
    have hcell : readByte { s with reg := m } 0x05 = readByte s 0x05 := hreason
    simp only [readReg, handleStart_cfg]
    show readByte (handleStart { s with reg := m } reason) 0x05 = readByte (handleStart s reason) 0x05
    rw [readByte_handleStart, readByte_handleStart, henable, hcell]

/-- The `ClearMask` rows read `START_ENABLE` and the three restart bytes alone (rules R114, R115). -/
theorem leaveClearMask_alike {s : State} {m : Memory}
    (henable : readReg { s with reg := m } .startEnable = readReg s .startEnable)
    (hhours : readReg { s with reg := m } .restartHours = readReg s .restartHours)
    (hminutes : readReg { s with reg := m } .restartMinutes = readReg s .restartMinutes)
    (hseconds : readReg { s with reg := m } .restartSeconds = readReg s .restartSeconds) :
    AlikeButRegisters (leaveClearMask s) (leaveClearMask { s with reg := m }) where
  frame := by rw [leaveClearMask_eq, leaveClearMask_eq, henable, hhours, hminutes, hseconds]
  reason := by
    have hcleared : ∀ u : State, readReg (leaveClearMask u) .startReason = 0 := fun u =>
      (readByte_leaveClearMask u 0x05).trans (if_pos rfl)
    rw [hcleared, hcleared]

theorem runRow_alike {s : State} {m : Memory} (r : StepRow)
    (h : ∀ q ∈ [RegName.startEnable, .startReason, .restartHours, .restartMinutes, .restartSeconds],
      readReg { s with reg := m } q = readReg s q) :
    AlikeButRegisters (runRow s r) (runRow { s with reg := m } r) := by
  have henable := h .startEnable (by decide)
  have hreason := h .startReason (by decide)
  cases r with
  | clearMaskPg | clearMaskNoPg =>
    exact (leaveClearMask_alike henable (h _ (by decide)) (h _ (by decide)) (h _ (by decide))).withPstate _
  | offPg => exact handleStart_alike (s := { s with pstate := .offPowerGood }) startPwrGood henable hreason
  | _ => exact ⟨rfl, hreason⟩

/-- Settles O36: the row depends on `pstate` and the levels, and each row reads the five registers alone. -/
theorem stepReadsOnlyStartAndRestartRegisters : Obligations.StepReadsOnlyStartAndRestartRegisters := by
  intro s s' hs' hregs
  generalize s'.reg = m at hs'
  subst hs'
  have h := runRow_alike (selectedRow s) hregs
  exact ⟨_, _, rfl, rfl, congrArg (reply · .none) h.frame, h.reason⟩

end Sys2Proof.Machine
end

section
/-! SUPPORT. The events of the controller port (spec/42_power_controller.md rules R127 to R131, R134, R135): the requests,
the edges of PowerState, and who writes `START_REASON`. -/

namespace Sys2Proof.Machine

/-! ## Requests -/

/-- Settles O37: the two branches of the one test. -/
theorem requestPowerDownOnlyFromOn : Obligations.RequestPowerDownOnlyFromOn :=
  fun _ => ⟨fun hp => congrArg (fun u => Host.Outcome.next (reply u .none)) (if_pos hp),
    fun hp => congrArg (fun u => Host.Outcome.next (reply u .none)) (if_neg hp)⟩

/-- The handler leaves `pstate`, or takes it from an off state to `PoweringOn`. -/
theorem handleStart_pstate_cases (s : State) (reason : Byte) :
    (handleStart s reason).pstate = s.pstate ∨
      (s.pstate = .off ∨ s.pstate = .offPowerGood) ∧ (handleStart s reason).pstate = .poweringOn := by
  rcases handleStart_cases s reason with ⟨-, e⟩ | ⟨hadm, e⟩ <;> rw [e]
  · exact .inl rfl
  · exact .inr ⟨(startAdmitted_iff.mp hadm).1, rfl⟩

/-- Settles O39: an accepted event leaves `PoweringOn`, where the handler is inert. -/
theorem secondStartEventIsInert : Obligations.SecondStartEventIsInert := by
  intro s t reason again h hmoved
  cases h
  have hp : (handleStart s reason).pstate = .poweringOn :=
    ((handleStart_pstate_cases s reason).resolve_left hmoved).2
  have hinert : handleStart (reply (handleStart s reason) .none) again = reply (handleStart s reason) .none :=
    handleStart_of_not_off (by simp [hp]) (by simp [hp]) again
  exact (congrArg (fun u => Host.Outcome.next (reply u .none)) hinert).trans rfl

theorem startRequest_of_enabled {s : State} {k : Nat} (h : s.irqStart.getLsbD k = true) (reason : Byte) :
    startRequest s k reason = handleStart (deliver s) reason :=
  if_pos h

theorem startRequest_of_masked {s : State} {k : Nat} (h : s.irqStart.getLsbD k = false) (reason : Byte) :
    startRequest s k reason = s :=
  if_neg (Bool.eq_false_iff.mp h)

/-- An operation that raises the request of source `k` with its reason: by the source's mask bit it is the handler's call
on the awake machine, or nothing (rules R129 to R131). -/
theorem exec_startRequest {i : Instr} {s : State} {k : Nat} {reason : Byte}
    (h : exec i s = .next (reply (startRequest s k reason) .none)) :
    (s.irqStart.getLsbD k = true → ∃ t, exec i s = .next t ∧
      exec (.handleStartEvent reason) { s with sleeping := false } = .next t) ∧
    (s.irqStart.getLsbD k = false → exec i s = .next { s with answer := .none }) := by
  refine ⟨fun hbit => ⟨_, h, ?_⟩, fun hbit => ?_⟩
  · rw [startRequest_of_enabled hbit]; rfl
  · rw [h, startRequest_of_masked hbit]; rfl

/-- Settles O40: the three sources, each with its bit and its reason. -/
theorem startRequestsNeedTheirMaskBit : Obligations.StartRequestsNeedTheirMaskBit := by
  intro s
  obtain ⟨button, buttonLost⟩ := exec_startRequest (i := .irqStartButton) (s := s) rfl
  obtain ⟨opto, optoLost⟩ := exec_startRequest (i := .irqStartOpto) (s := s) rfl
  obtain ⟨timeout, timeoutLost⟩ := exec_startRequest (i := .irqStartTimeout) (s := s) rfl
  exact ⟨button, buttonLost, opto, optoLost, timeout, timeoutLost⟩

/-! ## The edges of PowerState (rule R134) -/

/-- `q` is `p`, or one of the edges of rule R134 leads from `p` to `q`. -/
def PowerEdge (p q : PState) : Prop :=
  q = p ∨ (p, q) ∈
    [(PState.init, PState.poweringOn), (.init, .poweringOff), (.clearMask, .offPowerGood), (.clearMask, .off),
     (.off, .offPowerGood), (.off, .poweringOn), (.offPowerGood, .off), (.offPowerGood, .poweringOn),
     (.poweringOn, .on), (.on, .poweringOff), (.poweringOff, .clearMask),
     (.unknown, .poweringOn), (.unknown, .poweringOff)]

theorem handleStart_edge (s : State) (reason : Byte) : PowerEdge s.pstate (handleStart s reason).pstate := by
  rcases handleStart_pstate_cases s reason with h | ⟨hp | hp, h⟩ <;> rw [h]
  · exact .inl rfl
  · rw [hp]; exact .inr (by decide)
  · rw [hp]; exact .inr (by decide)

theorem startRequest_edge (s : State) (k : Nat) (reason : Byte) :
    PowerEdge s.pstate (startRequest s k reason).pstate := by
  rcases startRequest_cases s k reason with ⟨-, e⟩ | ⟨-, e⟩ <;> rw [e]
  · exact .inl rfl
  · exact handleStart_edge (deliver s) reason

/-- The row that a state selects goes along an edge from that state. -/
theorem Selected.edge {s : State} {r : StepRow} (h : Selected s r) : PowerEdge s.pstate (runRow s r).pstate := by
  cases h with
  | offHold | offPgHold | onHold | ponRetry => exact .inl rfl
  | offPg hp =>
    rcases handleStart_pstate_cases { s with pstate := .offPowerGood } startPwrGood with h | ⟨-, h⟩ <;>
      simp [PowerEdge, runRow, h, hp]
  | _ => simp [PowerEdge, runRow, *]

theorem runMain_edge (s : State) : PowerEdge s.pstate (runMain s).pstate := by
  obtain ⟨s0, tr, ph, sl, hs0, e, -⟩ := runMain_cases s
  rw [e]
  rcases hs0 with ⟨rfl, -⟩ | ⟨rfl, -⟩
  · exact .inl rfl
  · exact (selected_selectedRow s).edge

theorem exec_pwrEvt_edge {i : Instr} {s t : State} (hf : i.format = .pwrEvt) (hreset : ∀ c, i ≠ .reset c)
    (h : exec i s = .next t) : PowerEdge s.pstate t.pstate := by
  cases i <;> cases hf <;> cases h
  case step => exact (selected_selectedRow s).edge
  case requestPowerDown =>
    split
    · next hp => simp [PowerEdge, hp]
    · exact .inl rfl
  case handleStartEvent reason => exact handleStart_edge s reason
  case irqStartButton => exact startRequest_edge s 0 startButton
  case irqStartOpto => exact startRequest_edge s 1 startOpto
  case irqStartTimeout => exact startRequest_edge s 3 startTimeout
  case mainIter =>
    split
    · exact .inl rfl
    · exact runMain_edge s
  case reset c => exact absurd rfl (hreset c)
  case wake => exact .inl rfl

/-- Settles O56: of the ports the controller's alone writes `pstate`. -/
theorem powerStateMovesAlongTheTable : Obligations.PowerStateMovesAlongTheTable := by
  intro i s t hrow hreset h
  match hf : i.format with
  | .storeOp => rw [exec_storeOp_frame hf h]; exact .inl rfl
  | .internal => rw [exec_internal_frame hf h]; exact .inl rfl
  | .busDec => rw [exec_busDec_frame hf h]; exact .inl rfl
  | .stepDec => exact absurd hf hrow
  | .pwrEvt => exact exec_pwrEvt_edge hf hreset h

/-! ## Who clears a bit of `START_REASON` (rule R135) -/

/-- Every bit of `START_REASON` that is set in `s` is set in `t`. -/
def KeepsReason (s t : State) : Prop := readReg s .startReason &&& ~~~ readReg t .startReason = 0

theorem KeepsReason.of_eq {s t : State} (h : readReg t .startReason = readReg s .startReason) : KeepsReason s t := by
  rw [KeepsReason, h]
  exact BitVec.and_not_self _

theorem KeepsReason.of_or {s t : State} {b : Byte} (h : readReg t .startReason = readReg s .startReason ||| b) :
    KeepsReason s t := by
  rw [KeepsReason, h, BitVec.not_or, ← BitVec.and_assoc, BitVec.and_not_self]
  exact BitVec.zero_and

/-- The handler ORs a reason in, or leaves the register. -/
theorem handleStart_keepsReason (s : State) (reason : Byte) : KeepsReason s (handleStart s reason) := by
  have hread : readReg (handleStart s reason) .startReason = _ := readByte_handleStart s reason 0x05
  split at hread
  · exact .of_or hread
  · exact .of_eq hread

theorem startRequest_keepsReason (s : State) (k : Nat) (reason : Byte) : KeepsReason s (startRequest s k reason) := by
  rcases startRequest_cases s k reason with ⟨-, e⟩ | ⟨-, e⟩ <;> rw [e]
  · exact .of_eq rfl
  · exact handleStart_keepsReason (deliver s) reason

/-- The rows but those of `ClearMask` (rules R112, R113, R116 to R126). -/
theorem runRow_keepsReason (s : State) {r : StepRow} (hpg : r ≠ .clearMaskPg) (hnopg : r ≠ .clearMaskNoPg) :
    KeepsReason s (runRow s r) := by
  cases r with
  | clearMaskPg => exact absurd rfl hpg
  | clearMaskNoPg => exact absurd rfl hnopg
  | offPg => exact handleStart_keepsReason { s with pstate := .offPowerGood } startPwrGood
  | _ => exact .of_eq rfl

/-- The two rows that clear the register are those of `ClearMask`. -/
theorem Selected.ne_clearMask_rows {s : State} {r : StepRow} (h : Selected s r) (hp : s.pstate ≠ .clearMask) :
    r ≠ .clearMaskPg ∧ r ≠ .clearMaskNoPg := by
  cases h with
  | clearMaskPg hp' | clearMaskNoPg hp' => exact absurd hp' hp
  | _ => exact ⟨by decide, by decide⟩

theorem stepOnce_keepsReason {s : State} (hp : s.pstate ≠ .clearMask) : KeepsReason s (stepOnce s) := by
  obtain ⟨hpg, hnopg⟩ := (selected_selectedRow s).ne_clearMask_rows hp
  exact runRow_keepsReason s hpg hnopg

theorem runMain_keepsReason {s : State} (hp : s.pstate ≠ .clearMask) : KeepsReason s (runMain s) := by
  obtain ⟨s0, tr, ph, sl, hs0, e, -⟩ := runMain_cases s
  rw [e]
  rcases hs0 with ⟨rfl, -⟩ | ⟨rfl, -⟩
  · exact .of_eq rfl
  · exact stepOnce_keepsReason hp

/-- A bus write does not reach `START_REASON` while writes to read-only registers are ignored (rule R57). -/
theorem busStore_keepsReason {s : State} (hw : s.cfg.wellFormed = true) (hro : s.cfg.roBusWrite = .ignore) (a : Addr)
    (v : Byte) : KeepsReason s (busStore s a v) :=
  .of_eq (readReg_busStore_ro hw hro rfl a v)

theorem exec_internal_keepsReason {i : Instr} {s t : State} (hw : s.cfg.wellFormed = true)
    (hro : s.cfg.roBusWrite = .ignore) (hf : i.format = .internal) (h : exec i s = .next t) : KeepsReason s t := by
  cases i <;> cases hf <;> cases h
  case busWrite8 a v => exact busStore_keepsReason hw hro a v
  all_goals exact .of_eq rfl

theorem exec_busDec_keepsReason {i : Instr} {s t : State} (hw : s.cfg.wellFormed = true)
    (hro : s.cfg.roBusWrite = .ignore) (hf : i.format = .busDec) (h : exec i s = .next t) : KeepsReason s t := by
  cases i <;> cases hf <;> cases h
  case busRxData b => exact busStore_keepsReason (s := deliver s) hw hro s.ptr b
  all_goals exact .of_eq rfl

theorem exec_pwrEvt_keepsReason {i : Instr} {s t : State} (hf : i.format = .pwrEvt) (hreset : ∀ c, i ≠ .reset c)
    (hp : i = .step ∨ i = .mainIter → s.pstate ≠ .clearMask) (h : exec i s = .next t) : KeepsReason s t := by
  cases i <;> cases hf <;> cases h
  case step => exact stepOnce_keepsReason (hp (.inl rfl))
  case requestPowerDown => split <;> exact .of_eq rfl
  case handleStartEvent reason => exact handleStart_keepsReason s reason
  case irqStartButton => exact startRequest_keepsReason s 0 startButton
  case irqStartOpto => exact startRequest_keepsReason s 1 startOpto
  case irqStartTimeout => exact startRequest_keepsReason s 3 startTimeout
  case mainIter =>
    split
    · exact .of_eq rfl
    · exact runMain_keepsReason (hp (.inr rfl))
  case reset c => exact absurd rfl (hreset c)
  case wake => exact .of_eq rfl

/-- Settles O55: format by format; of the firmware's moves none is to `START_REASON`, and the rest write it through the
handler alone. -/
theorem startReasonIsOnlyEverOred : Obligations.StartReasonIsOnlyEverOred := by
  intro i s t hw hro hfw hpg hnopg hreset hp h
  show KeepsReason s t
  match hf : i.format with
  | .storeOp => exact .of_eq ((fwEnvAllows_frame hw (hfw hf) h).2 .startReason rfl)
  | .internal => exact exec_internal_keepsReason hw hro hf h
  | .busDec => exact exec_busDec_keepsReason hw hro hf h
  | .stepDec =>
    obtain ⟨r, rfl⟩ := exists_rowInstr_of_stepDec hf
    rw [exec_rowInstr] at h
    cases h
    exact runRow_keepsReason s (fun hr => hpg (congrArg StepRow.instr hr)) fun hr => hnopg (congrArg StepRow.instr hr)
  | .pwrEvt => exact exec_pwrEvt_keepsReason hf hreset hp h

end Sys2Proof.Machine
end

section
/-! SUPPORT. The main-loop iteration, part by part (spec/42_power_controller.md rule R132). -/

namespace Sys2Proof.Machine

/-! ## The parts -/

/-- With an input before the heartbeat the first part is all. -/
theorem stepPart_of_due {s : State} (h : dueAt .kickDue s = true) :
    stepPart s = { stepOnce s with mainPhase := .kickDue } :=
  if_pos ((dueAt_stepOnce .kickDue s).trans h)

theorem stepPart_of_not_due {s : State} (h : dueAt .kickDue s = false) : stepPart s = kickPart (stepOnce s) :=
  if_neg (Bool.eq_false_iff.mp ((dueAt_stepOnce .kickDue s).trans h))

/-- With an input before the suspend test the heartbeat is all. -/
theorem kickPart_of_due {s : State} (h : dueAt .suspendDue s = true) :
    kickPart s = { s with trace := s.trace ++ [.wdtKick], mainPhase := .suspendDue } :=
  if_pos h

theorem suspendPart_eq (s : State) :
    suspendPart s =
      if s.pstate = .on then { s with mainPhase := .ready }
      else { s with trace := s.trace ++ [.sleep], sleeping := true, mainPhase := .ready } :=
  rfl

theorem kickPart_of_not_due {s : State} (h : dueAt .suspendDue s = false) :
    kickPart s =
      if s.pstate = .on then { s with trace := s.trace ++ [.wdtKick], mainPhase := .ready }
      else { s with trace := s.trace ++ [.wdtKick, .sleep], sleeping := true, mainPhase := .ready } := by
  have hkick : kickPart s = suspendPart (emit s .wdtKick) := if_neg (Bool.eq_false_iff.mp h)
  have htrace : s.trace ++ [OutEvent.wdtKick] ++ [.sleep] = s.trace ++ [.wdtKick, .sleep] := List.append_assoc _ _ _
  rw [hkick, suspendPart_eq, emit_trace, htrace]
  rfl

/-- `MAIN_ITER` of an awake machine runs the part that the loop has come to, and those after it. -/
theorem exec_mainIter_of_runMain {s u : State} (hs : s.sleeping = false) (h : runMain s = u) :
    exec .mainIter s = .next (reply u .none) :=
  h ▸ exec_mainIter_awake hs

theorem runMain_of_ready {s : State} (h : s.mainPhase = .ready) : runMain s = stepPart s := by
  rw [runMain, h]

theorem runMain_of_kickDue {s : State} (h : s.mainPhase = .kickDue) : runMain s = kickPart s := by
  rw [runMain, h]

theorem runMain_of_suspendDue {s : State} (h : s.mainPhase = .suspendDue) : runMain s = suspendPart s := by
  rw [runMain, h]

/-! ## Where an iteration stops -/

theorem exec_mainIter_stops_before_kick {s : State} (hs : s.sleeping = false) (hready : s.mainPhase = .ready)
    (hdue : dueAt .kickDue s = true) :
    exec .mainIter s = .next (reply { stepOnce s with mainPhase := .kickDue } .none) :=
  exec_mainIter_of_runMain hs ((runMain_of_ready hready).trans (stepPart_of_due hdue))

theorem exec_mainIter_stops_before_suspend {s : State} (hs : s.sleeping = false) (hready : s.mainPhase = .ready)
    (hkick : dueAt .kickDue s = false) (hdue : dueAt .suspendDue s = true) :
    exec .mainIter s =
      .next (reply { stepOnce s with trace := (stepOnce s).trace ++ [.wdtKick], mainPhase := .suspendDue } .none) := by
  have hdue' : dueAt .suspendDue (stepOnce s) = true := (dueAt_stepOnce _ s).trans hdue
  exact exec_mainIter_of_runMain hs
    ((runMain_of_ready hready).trans ((stepPart_of_not_due hkick).trans (kickPart_of_due hdue')))

/-- Settles O43: no part stops for an input, so the third follows the second and the second the first. -/
theorem mainIterationStepsKicksSuspends : Obligations.MainIterationStepsKicksSuspends := by
  intro s hs hready hkick hsuspend
  have hsuspend' : dueAt .suspendDue (stepOnce s) = false := (dueAt_stepOnce _ s).trans hsuspend
  have hphase : (stepOnce s).mainPhase = .ready := (stepOnce_mainPhase s).trans hready
  have hrun : runMain s = _ :=
    (runMain_of_ready hready).trans ((stepPart_of_not_due hkick).trans (kickPart_of_not_due hsuspend'))
  refine ⟨_, rfl, (exec_mainIter_of_runMain hs hrun).trans ?_⟩
  rw [← hphase, reply_pstate]
  by_cases hon : (stepOnce s).pstate = .on
  · rw [if_pos hon, if_pos hon]; rfl
  · rw [if_neg hon, if_neg hon]; rfl

/-- An input falls at one place only. -/
theorem due_kickDue_of_suspendDue {inp : Input} (h : due .suspendDue inp = true) : due .kickDue inp = false := by
  simp only [due, Bool.and_eq_true, beq_iff_eq] at h
  simp [due, h.1]

/-- The step that serves `MAIN_ITER` between two iterations stops at the place at which the next input falls. -/
theorem step_mainIter_stops_at {s : State} {m inp : Input} {rest : List Input} {p : MainPhase}
    (hs : s.sleeping = false) (hready : s.mainPhase = .ready) (hp : p ≠ .ready) (hi : s.inputs = m :: inp :: rest)
    (hd : decode s.cfg (eventWord s m.event) = .ok .mainIter) (hdue : due p inp = true) :
    ∃ a, step s = .next a ∧ a.mainPhase = p ∧ a.sleeping = false ∧ a.inputs = inp :: rest := by
  have hmid : midIteration s = false := by simp [midIteration, hready]
  have hstep : step s = exec .mainIter (serve s m (inp :: rest)) :=
    stepRunsDecodedOperation s m (inp :: rest) .mainIter hi (.inl hmid) hd fun h => by simp [hs] at h
  have hasleep : (stepOnce (serve s m (inp :: rest))).sleeping = false := (stepOnce_sleeping _).trans hs
  have hinputs : (stepOnce (serve s m (inp :: rest))).inputs = inp :: rest := stepOnce_inputs _
  cases p with
  | ready => exact absurd rfl hp
  | kickDue =>
    exact ⟨_, hstep.trans (exec_mainIter_stops_before_kick (s := serve s m (inp :: rest)) hs hready hdue),
      rfl, hasleep, hinputs⟩
  | suspendDue =>
    exact ⟨_, hstep.trans (exec_mainIter_stops_before_suspend (s := serve s m (inp :: rest)) hs hready
      (due_kickDue_of_suspendDue hdue) hdue), rfl, hasleep, hinputs⟩

/-- Settles O44: place by place, then the step that serves `MAIN_ITER`. -/
theorem mainIterationYieldsBetweenParts : Obligations.MainIterationYieldsBetweenParts := by
  intro s hs
  refine ⟨fun hready hdue => ⟨_, rfl, exec_mainIter_stops_before_kick hs hready hdue⟩,
    fun hready hkick hdue => ⟨_, rfl, exec_mainIter_stops_before_suspend hs hready hkick hdue⟩,
    fun hphase hdue => exec_mainIter_of_runMain hs ((runMain_of_kickDue hphase).trans (kickPart_of_due hdue)),
    fun hphase hdue => ?kick, fun hphase => ?suspend,
    fun m inp rest p hready hp hi hd hdue => step_mainIter_stops_at hs hready hp hi hd hdue⟩
  case kick =>
    rw [exec_mainIter_of_runMain hs ((runMain_of_kickDue hphase).trans (kickPart_of_not_due hdue))]
    split <;> rfl
  case suspend =>
    rw [exec_mainIter_of_runMain hs ((runMain_of_suspendDue hphase).trans (suspendPart_eq s))]
    split <;> rfl

end Sys2Proof.Machine
end

section
/-! SUPPORT. Taking an interrupt and the way an operation ends (spec/60_exceptions.md rules R137, R140 to R148): which
port an operation comes from, that every operation completes, what a bus event cannot touch, and what ends a
suspension. -/

namespace Sys2Proof

/-! ## The port of an operation -/

theorem busTable_format : ∀ row ∈ busTable, ∀ p, (row.2.2 p).format = .busDec := by
  simp [busTable, Instr.format]

/-- Every BUS_DEC word selects one of the twelve rows of rule R78. -/
theorem decodeBus_format (bd : BitVec 7) (p : Byte) : (decodeBus bd p).format = .busDec := by
  unfold decodeBus
  cases hrows : busRowsOf bd with
  | nil => rfl
  | cons f fs =>
    have hf : f ∈ busRowsOf bd := by simp [hrows]
    obtain ⟨row, hrow, rfl⟩ := List.mem_map.mp hf
    exact busTable_format row (List.mem_of_mem_filter hrow) p

theorem decodeInternal_format (w : BitVec 18) : (decodeInternal w).format = .internal := by
  unfold decodeInternal
  dsimp only
  split <;> rfl

theorem StepRow.instr_format (r : StepRow) : r.instr.format = .stepDec := by
  cases r <;> rfl

/-- A word decodes to an operation of its own format only (rule R61). -/
theorem decode_format {c : Cfg} {x : OpWord} {i : Instr} (h : decode c x = .ok i) : i.format = x.format := by
  cases x with
  | storeOp w =>
    rcases decodeStore_cases h with ⟨_, rfl⟩ | ⟨_, _, rfl⟩ | ⟨_, _, rfl⟩ | ⟨_, _, rfl⟩ | ⟨_, rfl⟩ | ⟨_, _, rfl⟩ <;> rfl
  | internal w => cases h; exact decodeInternal_format w
  | busDec bd p =>
    simp only [decode] at h
    split at h <;> cases h
    exact decodeBus_format bd p
  | stepDec sw => cases h; exact (decodeStep sw).instr_format
  | pwrEvt w =>
    rcases decodePwr_cases h with rfl | rfl | ⟨_, rfl⟩ | rfl | rfl | rfl | rfl | ⟨_, rfl⟩ | rfl <;> rfl

end Sys2Proof

namespace Sys2Proof.Machine

/-- Only the two-wire bus gives an operation of format BUS_DEC (rule R70). -/
theorem exists_busEvent_of_format {s : State} {e : PortEvent} {i : Instr}
    (hd : decode s.cfg (eventWord s e) = .ok i) (hf : i.format = .busDec) : ∃ w, e = .bus w := by
  have hword : (eventWord s e).format = .busDec := (decode_format hd).symm.trans hf
  cases e with
  | bus w => exact ⟨w, rfl⟩
  | store w => cases hword
  | pwr w => cases hword
  | internal w => cases hword

/-! ## Every operation completes (rule R137) -/

/-- Each meaning answers a next state, whatever the state. -/
theorem exec_completes (i : Instr) (s : State) : ∃ t, exec i s = .next t := by
  cases i <;> exact ⟨_, rfl⟩

/-- Settles O49: a step runs one operation, or stands still. -/
theorem everyOperationAndStepCompletes : Obligations.EveryOperationAndStepCompletes := by
  refine ⟨exec_completes, fun s => ?_⟩
  unfold step
  cases selectMove s with
  | run i s' => exact exec_completes i s'
  | still s' => exact ⟨s', rfl⟩

/-! ## Bus events and the sequencer (rules R143, R148) -/

/-- A bus write does not reach a read-only register while such writes are ignored (rule R57, test 1). -/
theorem readByte_busStore_ro {s : State} {a : Addr} (hro : s.cfg.roBusWrite = .ignore)
    (hclass : s.cfg.classOf a = some .ro) (b : Addr) (v : Byte) :
    readByte (busStore s b v) a.toNat = readByte s a.toNat := by
  rw [readByte_busStore, if_neg]
  rintro ⟨hacc, ha, -⟩
  rw [← BitVec.eq_of_toNat_eq ha, accept_ro hclass hro] at hacc
  cases hacc

/-- Of the operations of a bus event one stores, and that through the bus port. -/
theorem exec_busDec_readByte_ro {i : Instr} {s t : State} {a : Addr} (hf : i.format = .busDec)
    (hro : s.cfg.roBusWrite = .ignore) (hclass : s.cfg.classOf a = some .ro) (h : exec i s = .next t) :
    readByte t a.toNat = readByte s a.toNat := by
  cases i <;> cases hf <;> cases h
  case busRxData b => exact readByte_busStore_ro (s := deliver s) hro hclass s.ptr b
  all_goals rfl

/-- Settles O24: a bus event is never held off and runs an operation of format BUS_DEC, whose frame leaves the sequencer
alone. -/
theorem busMasterCannotTouchSequencer : Obligations.BusMasterCannotTouchSequencer := by
  intro s inp rest w hi hev hdue
  obtain ⟨i, hd⟩ : ∃ i, decode s.cfg (eventWord s inp.event) = .ok i := hev ▸ ⟨_, decode_busEvent_eq s w⟩
  have hf : i.format = .busDec := by
    rw [decode_format hd, hev]; rfl
  have hstep : step s = exec i (serve s inp rest) :=
    stepRunsDecodedOperation s inp rest i hi hdue hd fun _ => runsInMain_busDec hf inp.ctx
  obtain ⟨t, ht⟩ := exec_completes i (serve s inp rest)
  refine ⟨t, hstep.trans ht, ?_⟩
  have hro : s.cfg.roBusWrite = .ignore → ∀ a : Addr, s.cfg.classOf a = some .ro →
      readByte t a.toNat = readByte s a.toNat := fun hro a hclass =>
    exec_busDec_readByte_ro (s := serve s inp rest) hf hro hclass ht
  have hframe := exec_busDec_frame hf ht
  refine ⟨?_, ?_, ?_, ?_, ?_, ?_, ?_, hro⟩ <;> rw [hframe] <;> rfl

/-! ## What ends a suspension (rule R147) -/

/-- Settles O41: `WAKE` is the delivery of an interrupt that does nothing else. -/
theorem wakeEndsSuspensionOnly : Obligations.WakeEndsSuspensionOnly :=
  fun _ => rfl

/-- The operations that wake a suspended machine in `s`: those of a bus event that the slave does not ignore, the tick,
the reset, and the start requests whose mask bit is set. -/
inductive Wakes (s : State) : Instr → Prop where
  | bus {i : Instr} (hf : i.format = .busDec) (hon : i ≠ .busOffIgn) : Wakes s i
  | tick : Wakes s .wake
  | reset (c : Byte) : Wakes s (.reset c)
  | button (h : s.irqStart.getLsbD 0 = true) : Wakes s .irqStartButton
  | opto (h : s.irqStart.getLsbD 1 = true) : Wakes s .irqStartOpto
  | timeout (h : s.irqStart.getLsbD 3 = true) : Wakes s .irqStartTimeout

/-- A masked start request leaves the suspension as it is (rules R129 to R131). -/
theorem startRequest_asleep_or_enabled {s : State} (hs : s.sleeping = true) (k : Nat) (reason : Byte) :
    (startRequest s k reason).sleeping = true ∨ s.irqStart.getLsbD k = true := by
  rcases startRequest_cases s k reason with ⟨-, e⟩ | ⟨hbit, -⟩
  · exact .inl ((congrArg State.sleeping e).trans hs)
  · exact .inr hbit

theorem exec_pwrEvt_asleep_or_wakes {i : Instr} {s t : State} (hf : i.format = .pwrEvt) (hs : s.sleeping = true)
    (h : exec i s = .next t) : t.sleeping = true ∨ Wakes s i := by
  cases i <;> cases hf
  case step => cases h; exact .inl ((stepOnce_sleeping s).trans hs)
  case requestPowerDown => cases h; exact .inl (by rw [reply_sleeping]; split <;> exact hs)
  case handleStartEvent reason => cases h; exact .inl ((handleStart_sleeping s reason).trans hs)
  case irqStartButton => cases h; exact (startRequest_asleep_or_enabled hs 0 startButton).imp id .button
  case irqStartOpto => cases h; exact (startRequest_asleep_or_enabled hs 1 startOpto).imp id .opto
  case irqStartTimeout => cases h; exact (startRequest_asleep_or_enabled hs 3 startTimeout).imp id .timeout
  case mainIter => rw [exec_mainIter_asleep hs] at h; cases h; exact .inl hs
  case reset c => exact .inr (.reset c)
  case wake => exact .inr .tick

/-- Format by format: the firmware port, the internal operations and the rows leave the suspension, and so does a bus
event that the slave ignores (rule R103). -/
theorem exec_asleep_or_wakes {i : Instr} {s t : State} (hs : s.sleeping = true) (h : exec i s = .next t) :
    t.sleeping = true ∨ Wakes s i := by
  cases hf : i.format with
  | storeOp => rw [exec_storeOp_frame hf h]; exact .inl hs
  | internal => rw [exec_internal_frame hf h]; exact .inl hs
  | busDec =>
    by_cases hoff : i = .busOffIgn
    · subst hoff
      cases h
      exact .inl hs
    · exact .inr (.bus hf hoff)
  | stepDec =>
    obtain ⟨r, rfl⟩ := exists_rowInstr_of_stepDec hf
    rw [exec_rowInstr] at h
    cases h
    rw [runRow_frame]; exact .inl hs
  | pwrEvt => exact exec_pwrEvt_asleep_or_wakes hf hs h

/-- A disabled slave ignores every bus event (rules R90, R103). -/
theorem busEn_of_not_ignored {s : State} {w : BitVec 10} {i : Instr}
    (hd : decode s.cfg (eventWord s (.bus w)) = .ok i) (hon : i ≠ .busOffIgn) : s.busEn = true := by
  rcases decodeBusEvent_cases hd with ⟨-, hoff⟩ | ⟨hen, -⟩
  · exact absurd hoff hon
  · exact hen

/-- A step of a suspended machine leaves it suspended, or serves an input whose operation wakes. -/
theorem step_asleep_or_wakes {s t : State} (hs : s.sleeping = true) (hstep : step s = .next t) :
    t.sleeping = true ∨ ∃ inp rest i, s.inputs = inp :: rest ∧ decode s.cfg (eventWord s inp.event) = .ok i ∧
      Wakes (serve s inp rest) i := by
  rcases step_cases hstep with ⟨-, -, rfl⟩ | ⟨-, hawake, -⟩ | ⟨hawake, -⟩ | ⟨inp, rest, -, rfl, -⟩ |
    ⟨inp, rest, i, hi, -, hd, -, hx⟩
  · exact .inl hs
  · simp [hs] at hawake
  · simp [hs] at hawake
  · exact .inl hs
  · exact (exec_asleep_or_wakes (s := serve s inp rest) hs hx).imp id fun hwakes => ⟨inp, rest, i, hi, hd, hwakes⟩

/-- Settles O50: source by source; an operation that wakes by its format came from the bus while it was enabled. -/
theorem onlyDeliveredInterruptsWake : Obligations.OnlyDeliveredInterruptsWake := by
  intro s t hs _ hstep ht
  obtain ⟨inp, rest, i, hi, hd, hwakes⟩ := (step_asleep_or_wakes hs hstep).resolve_left (by simp [ht])
  refine ⟨inp, rest, hi, ?_⟩
  cases hwakes with
  | bus hf hon =>
    obtain ⟨w, hw⟩ := exists_busEvent_of_format hd hf
    exact .inl ⟨w, hw, busEn_of_not_ignored (hw ▸ hd) hon⟩
  | tick => exact .inr (.inl hd)
  | reset c => exact .inr (.inr (.inl ⟨c, hd⟩))
  | button hbit => exact .inr (.inr (.inr (.inl ⟨hd, hbit⟩)))
  | opto hbit => exact .inr (.inr (.inr (.inr (.inl ⟨hd, hbit⟩))))
  | timeout hbit => exact .inr (.inr (.inr (.inr (.inr ⟨hd, hbit⟩))))

end Sys2Proof.Machine
end

section
/-! SUPPORT. What the registers hold after a reset (spec/70_reset_and_hazards.md rule R150, spec/10_state.md rules R24
and R38), and the main loop of an awake machine with no input (spec/70_reset_and_hazards.md rule R152). -/

namespace Sys2Proof

/-- The row that `Defined` has for an address is the row of that address. -/
theorem Cfg.addr_of_regDef? {c : Cfg} {n : Nat} {d : RegDef} (h : c.regDef? n = some d) : d.addr.toNat = n := by
  simpa using List.find?_some h

/-- A named register has a row in `Defined`, at its own address (rule R9). -/
theorem Cfg.exists_regDef?_addrOf {c : Cfg} (h : c.wellFormed = true) (r : RegName) :
    ∃ d, c.regDef? (c.addrOf r).toNat = some d ∧ d.addr = c.addrOf r := by
  obtain ⟨d, hd⟩ := Option.isSome_iff_exists.mp (Cfg.defines_addrOf h r)
  exact ⟨d, hd, BitVec.eq_of_toNat_eq (Cfg.addr_of_regDef? hd)⟩

/-- The column "Reset value" of rule R24, by name: the read-only registers have values of their own, the others their
reset image. -/
def Cfg.resetByte (c : Cfg) : RegName → Byte
  | .mcusr => Machine.powerUpCause
  | .status | .startReason => 0
  | .capability => c.capabilityVal
  | .boardType => c.boardTypeVal
  | .boardRev => c.boardRevVal
  | .boardStep => c.boardStepVal
  | .extended => c.extSentinel
  | .i2cAddress => c.slaveAddr.setWidth 8
  | r => ((c.regDef? (c.addrOf r).toNat).map RegDef.resetImage).getD 0

end Sys2Proof

namespace Sys2Proof.Machine

/-! ## The register file after a reset -/

/-- The names are distinct, so the cell of a named register meets the test of its own name alone. -/
theorem unlistedByte_addrOf {c : Cfg} (hw : c.wellFormed = true) (r : RegName) :
    unlistedByte c (c.addrOf r).toNat = c.resetByte r := by
  obtain ⟨d, hd, haddr⟩ := Cfg.exists_regDef?_addrOf hw r
  cases r <;> simp [unlistedByte, hd, haddr, addrOf_eq_iff hw, Cfg.resetByte]

/-- A cell at which no read-only register stands meets none of the tests. -/
theorem unlistedByte_of_not_ro {c : Cfg} {n : Nat} {d : RegDef} (hd : c.regDef? n = some d)
    (hn : ∀ r : RegName, r.cls = .ro → n ≠ (c.addrOf r).toNat) : unlistedByte c n = d.resetImage := by
  have hne : ∀ r : RegName, r.cls = .ro → d.addr ≠ c.addrOf r := fun r hr e =>
    hn r hr ((Cfg.addr_of_regDef? hd).symm.trans (congrArg BitVec.toNat e))
  simp [unlistedByte, hd, hne .mcusr rfl, hne .status rfl, hne .startReason rfl, hne .capability rfl,
    hne .boardType rfl, hne .boardRev rfl, hne .boardStep rfl, hne .extended rfl, hne .i2cAddress rfl]

/-- Away from `MCUSR` a reset empties the register file. -/
theorem readByte_hardwareReset_other {s : State} {n : Nat} (hdef : s.cfg.defines n = true)
    (hn : n ≠ (s.cfg.addrOf .mcusr).toNat) (cause : Byte) :
    readByte (hardwareReset s cause) n = unlistedByte s.cfg n := by
  rw [readByte_hardwareReset, if_neg fun h => hn h.1, if_pos hdef]

theorem readReg_hardwareReset {s : State} (hw : s.cfg.wellFormed = true) {r : RegName} (hr : r ≠ .mcusr)
    (cause : Byte) : readReg (hardwareReset s cause) r = s.cfg.resetByte r := by
  have hcfg : (hardwareReset s cause).cfg = s.cfg := by rw [hardwareReset_eq]
  have hne : (s.cfg.addrOf r).toNat ≠ (s.cfg.addrOf .mcusr).toNat := fun e => hr (Cfg.addrOf_inj hw e)
  rw [readReg, hcfg, readByte_hardwareReset_other (Cfg.defines_addrOf hw r) hne, unlistedByte_addrOf hw]

/-- Settles O42: the components by the equation of the exception, the read-only registers by name, every other register
by its row of `Defined`. -/
theorem resetGivesEveryResetValue : Obligations.ResetGivesEveryResetValue := by
  intro s cause hw
  have hread : ∀ r : RegName, r ≠ .mcusr → readReg (reply (hardwareReset s cause) .none) r = s.cfg.resetByte r :=
    fun _ hr => readReg_hardwareReset hw hr cause
  refine ⟨_, rfl, ?components, readReg_mcusr_hardwareReset hw cause, hread .status (by decide),
    hread .startReason (by decide), hread .capability (by decide), hread .boardType (by decide),
    hread .boardRev (by decide), hread .boardStep (by decide), hread .extended (by decide),
    hread .i2cAddress (by decide), fun n d hd hn => ?image⟩
  case components => rw [hardwareReset_eq]; rfl
  case image =>
    have hdef : s.cfg.defines n = true := Option.isSome_iff_exists.mpr ⟨d, hd⟩
    exact (readByte_hardwareReset_other hdef (hn .mcusr rfl) cause).trans (unlistedByte_of_not_ro hd hn)

/-! ## The main loop with no input -/

theorem selectMove_between_iterations {s : State} (hi : s.inputs = []) (hs : s.sleeping = false)
    (hready : s.mainPhase = .ready) : selectMove s = .run .mainIter (freeSample s) := by
  simp [selectMove, hi, hs, hready]

theorem selectMove_inside_iteration {s : State} (hi : s.inputs = []) (hs : s.sleeping = false)
    (hmid : s.mainPhase ≠ .ready) : selectMove s = .run .mainIter s := by
  simp [selectMove, hi, hs, hmid]

/-- Settles O46: between two iterations the levels of the next one are draws, inside one they stand. -/
theorem mainLoopRunsByItself : Obligations.MainLoopRunsByItself := by
  intro s hi hs
  refine ⟨fun hready => ⟨(Config.freeLevels s.draws).1, (Config.freeLevels s.draws).2, ?between⟩, fun hmid => ?inside⟩
  case between => rw [step, selectMove_between_iterations hi hs hready]; rfl
  case inside => rw [step, selectMove_inside_iteration hi hs hmid]

end Sys2Proof.Machine
end
